-- ==== Sys2Proof/Word.lean ====
section
/-! DEFINITION. The word types of WMT-CORE (00_scope.md R4): bytes, 32-bit register and command words,
64-bit data registers. -/

namespace Sys2Proof

/-- One byte of memory, one sample, one colour component (R4, R5). -/
abbrev Byte := BitVec 8

/-- A command word and every host-visible register word (R4 `REG_BITS`, R60). -/
abbrev Word := BitVec 32

/-- The width of `OPERAND`, `RESULT` and `ACC` (R14 to R16). -/
abbrev DWord := BitVec 64

end Sys2Proof
end

