-- ==== Sys2Proof/Config.lean ====
section
/-! DEFINITION. What an implementation fixes (00_scope.md R4) and the free values: constants with no body, so that
nothing can be proved of them. -/

namespace Sys2Proof

/-- The number of bytes of `M`: addresses are 0 .. 2^32 - 1 (R4 `ADDR_BITS`, R40). -/
def Config.memSize : Nat := 2 ^ 32

/-- A quarter of `REG_BASE`, the OPEN platform address of the register block (R4, R11: a multiple of 4; U17: no rule
depends on its value). -/
opaque Config.regBaseWords : Nat

/-- `REG_BASE` (R11). -/
def Config.regBase : Nat := 4 * Config.regBaseWords

/-- FREE VALUE (log entry 7): the arbitrary bytes that an interrupted command's write range holds when a reset falls
inside the command (R191, U8). -/
opaque Config.freeByte : Nat → Byte

end Sys2Proof
end

