-- ==== Sys2Proof/Syntax.lean ====
section
/-! DEFINITION. The 21 commands of 30_encoding.md R62, one constructor per row, and the steps of the host
(30_encoding.md R69, 70_reset_and_hazards.md R199). -/

namespace Sys2Proof

/-- The byte order `ORD` of `EXT` and `COMPOSE` (R9, R61). -/
inductive ByteOrder where
  | be
  | le
deriving DecidableEq, Repr

/-- The length code `LEN` of `EXT` and `COMPOSE` (R9, R61): 1, 2, 4 or 8 bytes. -/
inductive Length where
  | b
  | h
  | w
  | d
deriving DecidableEq, Repr

/-- The commands, one constructor per row of the opcode map (R62). The two `.B` rows have a don't-care `ORD`, kept as
an argument so that no bit of the word is dropped (log entry 12). -/
inductive Instr where
  | extB (ord : ByteOrder)
  | extHBe
  | extHLe
  | extWBe
  | extWLe
  | extDBe
  | extDLe
  | composeB (ord : ByteOrder)
  | composeHBe
  | composeHLe
  | composeWBe
  | composeWLe
  | composeDBe
  | composeDLe
  | sumclr
  | sumadd
  | swap
  | unswap
  | convertW
  | convertB
  | clrerr
deriving DecidableEq, Repr

/-- The sizes of a register-block access other than one 32-bit word (R153). -/
inductive OddSize where
  | byte
  | half
  | double
  | burst
deriving DecidableEq, Repr

/-- One step of the host (R69, R199). A register is named by its offset in the 256-byte block at `REG_BASE` (R11). -/
inductive HostStep where
  /-- `wr REG, v`: a 32-bit register write (R151); at offset 0 it is a command (R150). -/
  | writeReg (off : BitVec 8) (v : Word)
  /-- `rd REG`: a 32-bit register read (R153). -/
  | readReg (off : BitVec 8)
  /-- An access to the block of another size, which has no meaning (R153, U13). -/
  | oddAccess (size : OddSize) (off : BitVec 8)
  /-- `mw a, b0 b1 …`: host memory writes (R57, R69). -/
  | writeMem (a : Nat) (bs : List Byte)
  /-- `mr a, n`: a host memory read of `n` bytes (R57, R69). -/
  | readMem (a n : Nat)
  /-- The reset event (R190). -/
  | reset
  /-- A command word written to `CMD` with the reset line falling while the command runs (R191, U8). -/
  | resetDuring (w : Word)
deriving DecidableEq, Repr

/-- What the host gets back from a read (R199). -/
inductive HostReply where
  | word (v : Word)
  | bytes (bs : List Byte)
deriving DecidableEq, Repr

end Sys2Proof
end

