-- ==== Sys2Proof/WellFormed.lean ====
section
/-! DEFINITION. Which commands and host steps are well formed. -/

namespace Sys2Proof

/-- Every command term is well formed: no command carries an immediate, a register number or an address (R66), and both
values of the `.B` rows' `ORD` are legal (R61). -/
def Instr.wf : Instr → Bool
  | .extB _ | .extHBe | .extHLe | .extWBe | .extWLe | .extDBe | .extDLe => true
  | .composeB _ | .composeHBe | .composeHLe | .composeWBe | .composeWLe | .composeDBe | .composeDLe => true
  | .sumclr | .sumadd | .swap | .unswap | .convertW | .convertB | .clrerr => true

/-- A host step is well formed when the spec gives it a meaning: register accesses are naturally aligned 32-bit words
(R153), memory accesses lie inside `M` (R40). -/
def HostStep.wf : HostStep → Bool
  | .writeReg off _ => off.toNat % 4 == 0
  | .readReg off => off.toNat % 4 == 0
  | .oddAccess _ _ => false
  | .writeMem a bs => decide (a + bs.length ≤ Config.memSize)
  | .readMem a n => decide (a + n ≤ Config.memSize)
  | .reset => true
  | .resetDuring _ => true

end Sys2Proof
end

