-- ==== Sys2Proof/Decode.lean ====
section
/-! DEFINITION. The command word (30_encoding.md): its fields (R61), the total decoder (R63), the encoder, and the
match/mask map (R62). -/

namespace Sys2Proof

/-- `OP`, bits 3:0 (R61). -/
def opField (w : Word) : BitVec 4 := w.extractLsb' 0 4

/-- `ORD`, bit 4 (R61). -/
def ordField (w : Word) : BitVec 1 := w.extractLsb' 4 1

/-- `LEN`, bits 6:5 (R61). -/
def lenField (w : Word) : BitVec 2 := w.extractLsb' 5 2

/-- `FORM`, bit 7 (R61). -/
def formField (w : Word) : BitVec 1 := w.extractLsb' 7 1

/-- Bits 31:8, reserved, must be 0 (R61). -/
def rsvField (w : Word) : BitVec 24 := w.extractLsb' 8 24

/-- The number of bytes `n = 2^LEN` of a length (R61, R66). -/
def Length.bytes : Length → Nat
  | .b => 1
  | .h => 2
  | .w => 4
  | .d => 8

/-- Why a word is `Illegal` (R63, R67). -/
inductive DecodeError where
  /-- A bit of 31:8 is set. -/
  | reservedBits
  /-- `OP` is 0 or 9 .. 15. -/
  | unknownOp
  /-- `FORM` is 1 with an `OP` other than 7. -/
  | formNotAllowed
  /-- `ORD` or `LEN` is not 0 with an `OP` other than 1 or 2. -/
  | ordOrLenNotAllowed
deriving DecidableEq, Repr

/-- The value of `ORD` (R61): 0 is `BE`, 1 is `LE`. -/
def orderOf (ord : BitVec 1) : ByteOrder := if ord = 0#1 then .be else .le

/-- The `EXT` row of a length code and an order (R62). -/
def extOf (len : BitVec 2) (ord : BitVec 1) : Instr :=
  match len.toNat, orderOf ord with
  | 0, o => .extB o
  | 1, .be => .extHBe
  | 1, .le => .extHLe
  | 2, .be => .extWBe
  | 2, .le => .extWLe
  | _, .be => .extDBe
  | _, .le => .extDLe

/-- The `COMPOSE` row of a length code and an order (R62). -/
def composeOf (len : BitVec 2) (ord : BitVec 1) : Instr :=
  match len.toNat, orderOf ord with
  | 0, o => .composeB o
  | 1, .be => .composeHBe
  | 1, .le => .composeHLe
  | 2, .be => .composeWBe
  | 2, .le => .composeWLe
  | _, .be => .composeDBe
  | _, .le => .composeDLe

/-- `EXT` and `COMPOSE` must have `FORM` 0 (R63). -/
def needForm0 (w : Word) (i : Instr) : Except DecodeError Instr :=
  if formField w = 0#1 then .ok i else .error .formNotAllowed

/-- Every other operation must have `ORD` and `LEN` 0 (R63). -/
def needOrdLen0 (w : Word) (i : Except DecodeError Instr) : Except DecodeError Instr :=
  if ordField w = 0#1 ∧ lenField w = 0#2 then i else .error .ordOrLenNotAllowed

/-- The decoder, total on 32-bit words (R63). -/
def decode (w : Word) : Except DecodeError Instr :=
  if rsvField w ≠ 0#24 then .error .reservedBits
  else
    match (opField w).toNat with
    | 1 => needForm0 w (extOf (lenField w) (ordField w))
    | 2 => needForm0 w (composeOf (lenField w) (ordField w))
    | 3 => needOrdLen0 w (needForm0 w .sumclr)
    | 4 => needOrdLen0 w (needForm0 w .sumadd)
    | 5 => needOrdLen0 w (needForm0 w .swap)
    | 6 => needOrdLen0 w (needForm0 w .unswap)
    | 7 => needOrdLen0 w (.ok (if formField w = 0#1 then .convertW else .convertB))
    | 8 => needOrdLen0 w (needForm0 w .clrerr)
    | _ => .error .unknownOp

/-- A word from its fields (R61). -/
def pack (op : BitVec 4) (ord : BitVec 1) (len : BitVec 2) (form : BitVec 1) : Word :=
  0#24 ++ form ++ len ++ ord ++ op

/-- The code of an order (R61). -/
def ordCode : ByteOrder → BitVec 1
  | .be => 0#1
  | .le => 1#1

/-- The encoder: each command's word from the columns OP, LEN, ORD, FORM of R62. -/
def encode : Instr → Word
  | .extB o => pack 1#4 (ordCode o) 0#2 0#1
  | .extHBe => pack 1#4 0#1 1#2 0#1
  | .extHLe => pack 1#4 1#1 1#2 0#1
  | .extWBe => pack 1#4 0#1 2#2 0#1
  | .extWLe => pack 1#4 1#1 2#2 0#1
  | .extDBe => pack 1#4 0#1 3#2 0#1
  | .extDLe => pack 1#4 1#1 3#2 0#1
  | .composeB o => pack 2#4 (ordCode o) 0#2 0#1
  | .composeHBe => pack 2#4 0#1 1#2 0#1
  | .composeHLe => pack 2#4 1#1 1#2 0#1
  | .composeWBe => pack 2#4 0#1 2#2 0#1
  | .composeWLe => pack 2#4 1#1 2#2 0#1
  | .composeDBe => pack 2#4 0#1 3#2 0#1
  | .composeDLe => pack 2#4 1#1 3#2 0#1
  | .sumclr => pack 3#4 0#1 0#2 0#1
  | .sumadd => pack 4#4 0#1 0#2 0#1
  | .swap => pack 5#4 0#1 0#2 0#1
  | .unswap => pack 6#4 0#1 0#2 0#1
  | .convertW => pack 7#4 0#1 0#2 0#1
  | .convertB => pack 7#4 0#1 0#2 1#1
  | .clrerr => pack 8#4 0#1 0#2 0#1

/-- The mnemonic of a command's row (R62). -/
def Instr.mnemonic : Instr → String
  | .extB _ => "EXT.B"
  | .extHBe => "EXT.H.BE"
  | .extHLe => "EXT.H.LE"
  | .extWBe => "EXT.W.BE"
  | .extWLe => "EXT.W.LE"
  | .extDBe => "EXT.D.BE"
  | .extDLe => "EXT.D.LE"
  | .composeB _ => "COMPOSE.B"
  | .composeHBe => "COMPOSE.H.BE"
  | .composeHLe => "COMPOSE.H.LE"
  | .composeWBe => "COMPOSE.W.BE"
  | .composeWLe => "COMPOSE.W.LE"
  | .composeDBe => "COMPOSE.D.BE"
  | .composeDLe => "COMPOSE.D.LE"
  | .sumclr => "SUMCLR"
  | .sumadd => "SUMADD"
  | .swap => "SWAP"
  | .unswap => "UNSWAP"
  | .convertW => "CONVERT.W"
  | .convertB => "CONVERT.B"
  | .clrerr => "CLRERR"

/-- One row of the opcode map (R62). -/
structure OpcodeRow where
  mnemonic : String
  matchBits : Word
  mask : Word
deriving DecidableEq, Repr

/-- A word selects a row iff `(w & mask) == match` (R62). -/
def OpcodeRow.selects (r : OpcodeRow) (w : Word) : Bool := w &&& r.mask == r.matchBits

/-- The complete map (R62), columns mnemonic, match, mask. -/
def opcodeTable : List OpcodeRow :=
  [ ⟨"EXT.B", 0x00000001, 0xFFFFFFEF⟩,
    ⟨"EXT.H.BE", 0x00000021, 0xFFFFFFFF⟩,
    ⟨"EXT.H.LE", 0x00000031, 0xFFFFFFFF⟩,
    ⟨"EXT.W.BE", 0x00000041, 0xFFFFFFFF⟩,
    ⟨"EXT.W.LE", 0x00000051, 0xFFFFFFFF⟩,
    ⟨"EXT.D.BE", 0x00000061, 0xFFFFFFFF⟩,
    ⟨"EXT.D.LE", 0x00000071, 0xFFFFFFFF⟩,
    ⟨"COMPOSE.B", 0x00000002, 0xFFFFFFEF⟩,
    ⟨"COMPOSE.H.BE", 0x00000022, 0xFFFFFFFF⟩,
    ⟨"COMPOSE.H.LE", 0x00000032, 0xFFFFFFFF⟩,
    ⟨"COMPOSE.W.BE", 0x00000042, 0xFFFFFFFF⟩,
    ⟨"COMPOSE.W.LE", 0x00000052, 0xFFFFFFFF⟩,
    ⟨"COMPOSE.D.BE", 0x00000062, 0xFFFFFFFF⟩,
    ⟨"COMPOSE.D.LE", 0x00000072, 0xFFFFFFFF⟩,
    ⟨"SUMCLR", 0x00000003, 0xFFFFFFFF⟩,
    ⟨"SUMADD", 0x00000004, 0xFFFFFFFF⟩,
    ⟨"SWAP", 0x00000005, 0xFFFFFFFF⟩,
    ⟨"UNSWAP", 0x00000006, 0xFFFFFFFF⟩,
    ⟨"CONVERT.W", 0x00000007, 0xFFFFFFFF⟩,
    ⟨"CONVERT.B", 0x00000087, 0xFFFFFFFF⟩,
    ⟨"CLRERR", 0x00000008, 0xFFFFFFFF⟩ ]

/-- The word written to `CMD` for a mnemonic in upper case: the match value of its row (R69). -/
def assemble (mnemonic : String) : Option Word :=
  (opcodeTable.find? (fun r => r.mnemonic == mnemonic)).map OpcodeRow.matchBits

/-- The command word whose low `nbits` bits are those of `w`, the bits above them 0. A command is one 32-bit number, not
bytes in a memory (R42, R43, R60), so no byte order enters. -/
def tableWord (nbits w : Nat) : Word := BitVec.ofNat 32 (w % 2 ^ nbits)

/-- What the decoder reads from the table's numbering of an instruction's bits: none where the word is illegal or the
number has more than 32 bits. -/
def decodeTableWord (nbits w : Nat) : Option Instr :=
  if w % 2 ^ nbits < 2 ^ 32 then (decode (tableWord nbits w)).toOption else none

end Sys2Proof
end

