-- ==== Sys2Proof/Machine/State.lean ====
section
/-! DEFINITION. The state of WMT-CORE (10_state.md), the reasons a step can stop, and the state after reset. -/

namespace Sys2Proof.Machine

/-- The byte memory `M` (20_memory.md R40): the bytes that differ from what an unlisted address reads as
(`Memory.unlisted`), addresses strictly rising. -/
abbrev Memory := List Host.Cell

/-- Everything WMT-CORE holds (R10): the registers of R11, each under its own name, and the memory `M`; then three
fields of the model's own. -/
structure State where
  /-- `STATUS.ERR`, bits 1:0 (R19, R161). -/
  err : BitVec 2
  /-- `STATUS.CAUSE`, bits 7:4 (R19, R162). -/
  cause : BitVec 4
  /-- `CUR_BASE` (R21). -/
  curBase : Word
  /-- `CUR_LEN` (R21). -/
  curLen : Word
  /-- `CUR_POS` (R21). -/
  curPos : Word
  /-- `OPERAND` (R14). -/
  operand : DWord
  /-- `RESULT` (R15). -/
  result : DWord
  /-- `ACC` (R16). -/
  acc : DWord
  /-- `PIXEL`, a packed ARGB word (R17). -/
  pixel : Word
  /-- `ALPHA` (R18). -/
  alpha : Byte
  /-- `OUT_BASE` (R22). -/
  outBase : Word
  /-- `OUT_CAP` (R22). -/
  outCap : Word
  /-- `OUT_POS` (R22). -/
  outPos : Word
  /-- `Y_BASE` (R23). -/
  yBase : Word
  /-- `Y_LEN` (R23). -/
  yLen : Word
  /-- `U_BASE` (R23). -/
  uBase : Word
  /-- `U_LEN` (R23). -/
  uLen : Word
  /-- `V_BASE` (R23). -/
  vBase : Word
  /-- `V_LEN` (R23). -/
  vLen : Word
  /-- `WIDTH`, read as two's complement (R24). -/
  width : Word
  /-- `HEIGHT`, read as two's complement (R24). -/
  height : Word
  /-- `Y_STRIDE`, read as two's complement (R24). -/
  yStride : Word
  /-- `UV_STRIDE`, read as two's complement (R24). -/
  uvStride : Word
  /-- `DST_BASE` (R25). -/
  dstBase : Word
  /-- `DST_CAP` (R25). -/
  dstCap : Word
  /-- `DST_LEN` (R25). -/
  dstLen : Word
  /-- The memory `M` (R27, R40). -/
  mem : Memory
  /-- MODEL'S OWN (log entry 2): the host steps still to come, oldest first. -/
  hostQueue : List HostStep
  /-- MODEL'S OWN (log entry 3): what the host's reads gave back, newest first. -/
  replies : List HostReply
  /-- MODEL'S OWN (log entry 7): how many values of `Config.freeByte` have been used. -/
  freeCount : Nat
deriving DecidableEq, Repr

/-- Why the machine stops with a fault. The machine's own exceptions are no faults: they are taken as next states. -/
inductive Fault where
  /-- Raised by a host memory access that leaves the 2^32 bytes of `M` (R40: there is no such address; log entry 6).
  Safe: the spec describes no such access. -/
  | noSuchAddress (a : Nat)
deriving DecidableEq, Repr

/-- Why a step has no meaning. -/
inductive Refusal where
  /-- An instruction without a meaning yet. No arm of `exec` answers it. Safe. -/
  | notModelled (mnemonic : String)
  /-- A register-block access at an offset that is no multiple of 4 (R153, U13; log entry 5). Safe. -/
  | misalignedRegisterAccess (off : BitVec 8)
  /-- A register-block access that is not one 32-bit word (R153, U13; log entry 5). Safe. -/
  | registerAccessNotAWord (size : OddSize)
deriving DecidableEq, Repr

/-- The machine right after reset (R29, R190): every register 0. Memory is untouched by reset and unspecified at
power-on; here nothing is listed (log entry 1). -/
def State.reset : State where
  err := 0
  cause := 0
  curBase := 0
  curLen := 0
  curPos := 0
  operand := 0
  result := 0
  acc := 0
  pixel := 0
  alpha := 0
  outBase := 0
  outCap := 0
  outPos := 0
  yBase := 0
  yLen := 0
  uBase := 0
  uLen := 0
  vBase := 0
  vLen := 0
  width := 0
  height := 0
  yStride := 0
  uvStride := 0
  dstBase := 0
  dstCap := 0
  dstLen := 0
  mem := []
  hostQueue := []
  replies := []
  freeCount := 0

/-- Write of `STATUS.ERR` and `STATUS.CAUSE`. -/
def State.setStatus (e : BitVec 2) (c : BitVec 4) (s : State) : State := { s with err := e, cause := c }
/-- Write of `CUR_POS`. -/
def State.setCurPos (v : Word) (s : State) : State := { s with curPos := v }
/-- Write of `RESULT`. -/
def State.setResult (v : DWord) (s : State) : State := { s with result := v }
/-- Write of `ACC`. -/
def State.setAcc (v : DWord) (s : State) : State := { s with acc := v }
/-- Write of `PIXEL`. -/
def State.setPixel (v : Word) (s : State) : State := { s with pixel := v }
/-- Write of `OUT_POS`. -/
def State.setOutPos (v : Word) (s : State) : State := { s with outPos := v }
/-- Write of `DST_LEN`. -/
def State.setDstLen (v : Word) (s : State) : State := { s with dstLen := v }
/-- New contents of `M`. -/
def State.setMem (m : Memory) (s : State) : State := { s with mem := m }
/-- The host steps still to come. -/
def State.setQueue (q : List HostStep) (s : State) : State := { s with hostQueue := q }
/-- One more answer to the host. -/
def State.addReply (r : HostReply) (s : State) : State := { s with replies := r :: s.replies }
/-- More free bytes used. -/
def State.useFree (n : Nat) (s : State) : State := { s with freeCount := s.freeCount + n }

end Sys2Proof.Machine
end

