-- ==== Sys2Proof/Machine/Flags.lean ====
section
/-! DEFINITION. The only flag register, `STATUS` (10_state.md R19): the codes of the two error kinds and their causes
(60_exceptions.md R161, R162). No command sets any other flag (R19). -/

namespace Sys2Proof.Machine

/-- The causes of `ContractViolation` (R162). -/
inductive Cause where
  | illegalCmd
  | regionWrap
  | negDim
  | negStride
  | yBounds
  | uBounds
  | vBounds
  | dstCap
  | overlap
  | outCap
deriving DecidableEq, Repr

/-- The two error kinds (R160). -/
inductive Trap where
  | outOfData
  | contractViolation (c : Cause)
deriving DecidableEq, Repr

/-- The code of a cause (R162). -/
def causeNumber : Cause → BitVec 4
  | .illegalCmd => 1
  | .regionWrap => 2
  | .negDim => 3
  | .negStride => 4
  | .yBounds => 5
  | .uBounds => 6
  | .vBounds => 7
  | .dstCap => 8
  | .overlap => 9
  | .outCap => 10

/-- What a trap writes to `STATUS.ERR` (R161). -/
def errCode : Trap → BitVec 2
  | .outOfData => 1
  | .contractViolation _ => 2

/-- What a trap writes to `STATUS.CAUSE` (R162): 0 for `OutOfData`. -/
def causeCode : Trap → BitVec 4
  | .outOfData => 0
  | .contractViolation c => causeNumber c

/-- The word `STATUS`: `CAUSE` in bits 7:4, `ERR` in bits 1:0, the reserved bits 0 (R19, R26). -/
def statusWord (s : State) : Word := 0#24 ++ s.cause ++ 0#2 ++ s.err

end Sys2Proof.Machine
end

