-- ==== Sys2Proof/Machine/Ops.lean ====
section
/-! DEFINITION. The shared operations: memory access (20_memory.md), taking an exception and returning from one
(60_exceptions.md R166, R169), and the front end of every command (43_control.md R150). -/

namespace Sys2Proof.Machine

/-- What a byte that nothing has written reads as. DESIGN CHOICE, unsafe (log entry 1): the spec leaves the initial
contents of `M` to the start state (R29, U16). -/
def Memory.unlisted : Byte := 0

/-- The byte `M[a]` (R8). -/
def Memory.read (m : Memory) (a : Nat) : Byte :=
  match m with
  | [] => Memory.unlisted
  | (k, b) :: rest => if k = a then b else Memory.read rest a

/-- `m` without an entry for `a`. -/
def Memory.erase (m : Memory) (a : Nat) : Memory := m.filter (fun c => c.1 != a)

/-- `m` with the entry `(a, b)` before the first larger address. -/
def Memory.insert (m : Memory) (a : Nat) (b : Byte) : Memory :=
  match m with
  | [] => [(a, b)]
  | (k, c) :: rest => if a < k then (a, b) :: (k, c) :: rest else (k, c) :: Memory.insert rest a b

/-- `MemWrite(a, 1, b)` (R8): exactly the byte at `a` changes (R40). The form stays canonical: a byte equal to what an
unlisted address reads as is not listed. -/
def Memory.write (m : Memory) (a : Nat) (b : Byte) : Memory :=
  if b = Memory.unlisted then Memory.erase m a else Memory.insert (Memory.erase m a) a b

/-- Byte writes at ascending addresses from `a`. -/
def Memory.writeBytes (m : Memory) (a : Nat) : List Byte → Memory
  | [] => m
  | b :: bs => Memory.writeBytes (Memory.write m a b) (a + 1) bs

/-- The bytes `M[a] .. M[a + n - 1]`, ascending. -/
def Memory.readBytes (m : Memory) (a n : Nat) : List Byte := (List.range n).map (fun i => Memory.read m (a + i))

/-- `MemWrite(a, 4, v)`, little-endian (R8, R41). -/
def Memory.writeWord (m : Memory) (a : Nat) (v : Word) : Memory :=
  Memory.writeBytes m a
    [v.extractLsb' 0 8, v.extractLsb' 8 8, v.extractLsb' 16 8, v.extractLsb' 24 8]

/-- `MemRead(a, 4)`, little-endian (R8). -/
def Memory.readWord (m : Memory) (a : Nat) : Word :=
  Memory.read m (a + 3) ++ Memory.read m (a + 2) ++ Memory.read m (a + 1) ++ Memory.read m a

/-- The canonical form: addresses strictly rising. -/
def Memory.rising : Memory → Bool
  | [] => true
  | [_] => true
  | c :: d :: rest => decide (c.1 < d.1) && Memory.rising (d :: rest)

/-- The canonical form of a memory: strictly rising addresses, all of them addresses of `M` (R40), no entry equal to
what an unlisted address reads as. -/
def Memory.wf (m : Memory) : Bool :=
  Memory.rising m && m.all (fun c => decide (c.1 < Config.memSize) && c.2 != Memory.unlisted)

/-- A region `(BASE, LEN)` runs past the top of memory: `BASE + LEN > 2^32`, computed without wrap (R48). -/
def regionWraps (base len : Word) : Bool := decide (Config.memSize < base.toNat + len.toNat)

/-- TAKING AN EXCEPTION (R166): `ERR` and `CAUSE` take the trap's codes and nothing else changes. -/
def raise (t : Trap) (s : State) : State := s.setStatus (errCode t) (causeCode t)

/-- RETURN FROM THE LATCHED STATE (R169, R152): the latch is cleared; nothing is restored, because a trap saves nothing. -/
def clearLatch (s : State) : State := s.setStatus 0 0

/-- The front end of every command but `CLRERR` (R150, R168): while an error is latched the command changes nothing
(log entry 8). -/
def command (op : State → State) (s : State) : Host.Outcome State Fault Refusal :=
  .next (if s.err = 0#2 then op s else s)

/-- The registers of the reset event (R190): every register 0, `M` untouched; the host's own steps and answers are not
the core's to reset. -/
def resetEvent (s : State) : State :=
  { State.reset with mem := s.mem, hostQueue := s.hostQueue, replies := s.replies, freeCount := s.freeCount }

end Sys2Proof.Machine
end

