-- ==== Sys2Proof/Machine/Operands.lean ====
section
/-! DEFINITION. Operand forms: the composing function (40_binary_reader.md R80), sign extension (00_scope.md R7), byte
lanes of `OPERAND` (R14), the two cursors (R21, R22), pixel words (R110) and signed readings (R7, R24). -/

namespace Sys2Proof.Machine

/-- The shift of byte `i` of `n` (R66, R80). -/
def shift (n i : Nat) : ByteOrder → Nat
  | .le => 8 * i
  | .be => 8 * (n - 1 - i)

/-- `compose(b, n, ord)` (R80): the sum of the bytes, byte `i` shifted left by `shift(i)`, exactly (R6). -/
def compose (bs : List Byte) (ord : ByteOrder) : Nat :=
  ((List.range bs.length).map (fun i => (bs.getD i 0).toNat * 2 ^ shift bs.length i ord)).sum

/-- `decompose(v, n, ord)` (R99): byte `i` is `v[shift(i)+7 : shift(i)]`. A notation of the spec, not a command. -/
def decompose (v n : Nat) (ord : ByteOrder) : List Byte :=
  (List.range n).map (fun i => BitVec.ofNat 8 (v / 2 ^ shift n i ord))

/-- `sext_64` of a value of `n` bytes (R7). -/
def sext64 (n v : Nat) : DWord := (BitVec.ofNat (8 * n) v).signExtend 64

/-- The explicit bytes `b_i = OPERAND[8*i+7 : 8*i]`, `i` = 0 .. n-1 (R14, R91). -/
def operandBytes (n : Nat) (s : State) : List Byte := (List.range n).map (fun i => s.operand.extractLsb' (8 * i) 8)

/-- The address of the byte at the input cursor (R21, R45). -/
def cursorAddr (s : State) : Nat := s.curBase.toNat + s.curPos.toNat

/-- The address of the byte at the output cursor (R22, R45). -/
def outAddr (s : State) : Nat := s.outBase.toNat + s.outPos.toNat

/-- What the input cursor gives for a read of `n` bytes: the trap of R81 in its order of checks, or the bytes. -/
def cursorBytes (n : Nat) (s : State) : Except Trap (List Byte) :=
  if regionWraps s.curBase s.curLen then .error (.contractViolation .regionWrap)
  else if s.curLen.toNat < s.curPos.toNat + n then .error .outOfData
  else .ok (Memory.readBytes s.mem (cursorAddr s) n)

/-- `CUR_POS <- CUR_POS + n` (R21). -/
def advanceCursor (n : Nat) (s : State) : State := s.setCurPos (s.curPos + BitVec.ofNat 32 n)

/-- `OUT_POS <- OUT_POS + n` (R22). -/
def advanceOut (n : Nat) (s : State) : State := s.setOutPos (s.outPos + BitVec.ofNat 32 n)

/-- The packed ARGB word `{A, R, G, B}` (R17, R110). -/
def argb (a r g b : Byte) : Word := a ++ r ++ g ++ b

/-- `B` of a packed ARGB word, bits 7:0 (R17). -/
def blueOf (p : Word) : Byte := p.extractLsb' 0 8

/-- `G` of a packed ARGB word, bits 15:8 (R17). -/
def greenOf (p : Word) : Byte := p.extractLsb' 8 8

/-- `R` of a packed ARGB word, bits 23:16 (R17). -/
def redOf (p : Word) : Byte := p.extractLsb' 16 8

/-- `A` of a packed ARGB word, bits 31:24 (R17). -/
def alphaOf (p : Word) : Byte := p.extractLsb' 24 8

/-- `signed_32` (R7, R24). -/
def signed32 (v : Word) : Int := v.toInt

/-- `a >> k`, the arithmetic right shift: the floor of `a / 2^k` (R6). -/
def sra (a : Int) (k : Nat) : Int := a / 2 ^ k

/-- `clamp255` (R7), as a byte. -/
def clamp255 (x : Int) : Byte := if x < 0 then 0 else if 255 < x then 255 else BitVec.ofInt 8 x

end Sys2Proof.Machine
end

