-- ==== Sys2Proof/Machine/BinaryReader.lean ====
section
/-! DEFINITION. The BinaryReader unit (40_binary_reader.md): `EXT.*`, `COMPOSE.*`, `SUMCLR`, `SUMADD`. -/

namespace Sys2Proof.Machine

/-- `EXT(n, ord)` (R81): the checks, then `RESULT` and `CUR_POS`. -/
def extract (n : Length) (ord : ByteOrder) (s : State) : State :=
  match cursorBytes n.bytes s with
  | .error t => raise t s
  | .ok bs => advanceCursor n.bytes (s.setResult (sext64 n.bytes (compose bs ord)))

/-- `COMPOSE(n, ord)` (R91): `RESULT` from the low `n` bytes of `OPERAND`; no exception is possible. -/
def composeOperand (n : Length) (ord : ByteOrder) (s : State) : State :=
  s.setResult (sext64 n.bytes (compose (operandBytes n.bytes s) ord))

/-- `EXT.B` (R83): `ORD` makes no difference, since `shift(0)` of one byte is 0 under both orders. -/
def execExtB (ord : ByteOrder) (s : State) : Host.Outcome State Fault Refusal := command (extract .b ord) s

/-- `EXT.H.BE` (R84). -/
def execExtHBe (s : State) : Host.Outcome State Fault Refusal := command (extract .h .be) s

/-- `EXT.H.LE` (R85). -/
def execExtHLe (s : State) : Host.Outcome State Fault Refusal := command (extract .h .le) s

/-- `EXT.W.BE` (R86). -/
def execExtWBe (s : State) : Host.Outcome State Fault Refusal := command (extract .w .be) s

/-- `EXT.W.LE` (R87). -/
def execExtWLe (s : State) : Host.Outcome State Fault Refusal := command (extract .w .le) s

/-- `EXT.D.BE` (R88). -/
def execExtDBe (s : State) : Host.Outcome State Fault Refusal := command (extract .d .be) s

/-- `EXT.D.LE` (R89). -/
def execExtDLe (s : State) : Host.Outcome State Fault Refusal := command (extract .d .le) s

/-- `COMPOSE.B` (R92). -/
def execComposeB (ord : ByteOrder) (s : State) : Host.Outcome State Fault Refusal := command (composeOperand .b ord) s

/-- `COMPOSE.H.BE` (R93). -/
def execComposeHBe (s : State) : Host.Outcome State Fault Refusal := command (composeOperand .h .be) s

/-- `COMPOSE.H.LE` (R94). -/
def execComposeHLe (s : State) : Host.Outcome State Fault Refusal := command (composeOperand .h .le) s

/-- `COMPOSE.W.BE` (R95). -/
def execComposeWBe (s : State) : Host.Outcome State Fault Refusal := command (composeOperand .w .be) s

/-- `COMPOSE.W.LE` (R96). -/
def execComposeWLe (s : State) : Host.Outcome State Fault Refusal := command (composeOperand .w .le) s

/-- `COMPOSE.D.BE` (R97). -/
def execComposeDBe (s : State) : Host.Outcome State Fault Refusal := command (composeOperand .d .be) s

/-- `COMPOSE.D.LE` (R98). -/
def execComposeDLe (s : State) : Host.Outcome State Fault Refusal := command (composeOperand .d .le) s

/-- `SUMCLR` (R101): `ACC <- 0`. -/
def execSumclr (s : State) : Host.Outcome State Fault Refusal := command (fun s => s.setAcc 0) s

/-- `SUMADD` (R102): `ACC <- (ACC + OPERAND) mod 2^64`, no flag. -/
def execSumadd (s : State) : Host.Outcome State Fault Refusal := command (fun s => s.setAcc (s.acc + s.operand)) s

end Sys2Proof.Machine
end

