-- ==== Sys2Proof/Machine/Control.lean ====
section
/-! DEFINITION. The control family (43_control.md): `CLRERR`. -/

namespace Sys2Proof.Machine

/-- `CLRERR` (R152): the only command executed while an error is latched. -/
def execClrerr (s : State) : Host.Outcome State Fault Refusal := .next (clearLatch s)

end Sys2Proof.Machine
end

