-- ==== Sys2Proof/Machine/LayoutSwap.lean ====
section
/-! DEFINITION. The layout swapper unit (41_layout_swap.md): `SWAP`, `UNSWAP`. -/

namespace Sys2Proof.Machine

/-- The bytes `SWAP` writes: B, G, R of `PIXEL`, then `ALPHA` (R111). -/
def swapBytes (s : State) : List Byte := [blueOf s.pixel, greenOf s.pixel, redOf s.pixel, s.alpha]

/-- `SWAP` past the latch (R111). -/
def swapPixel (s : State) : State :=
  if regionWraps s.outBase s.outCap then raise (.contractViolation .regionWrap) s
  else if s.outCap.toNat < s.outPos.toNat + 4 then raise (.contractViolation .outCap) s
  else advanceOut 4 (s.setMem (Memory.writeBytes s.mem (outAddr s) (swapBytes s)))

/-- The packed word of the four bytes B, G, R, A (R112). -/
def pixelOfBytes (bs : List Byte) : Word := argb (bs.getD 3 0) (bs.getD 2 0) (bs.getD 1 0) (bs.getD 0 0)

/-- `UNSWAP` past the latch (R112). -/
def unswapPixel (s : State) : State :=
  match cursorBytes 4 s with
  | .error t => raise t s
  | .ok bs => advanceCursor 4 (s.setPixel (pixelOfBytes bs))

/-- `SWAP` (R111). -/
def execSwap (s : State) : Host.Outcome State Fault Refusal := command swapPixel s

/-- `UNSWAP` (R112). -/
def execUnswap (s : State) : Host.Outcome State Fault Refusal := command unswapPixel s

end Sys2Proof.Machine
end

