-- ==== Sys2Proof/Machine/YuvConvert.lean ====
section
/-! DEFINITION. The YUV converter unit (42_yuv_convert.md): `CONVERT.W`, `CONVERT.B`. -/

namespace Sys2Proof.Machine

/-- The numerator of `r_raw` (R124). -/
def redNum (y v : Byte) : Int := 298 * ((y.toNat : Int) - 16) + 409 * ((v.toNat : Int) - 128) + 128

/-- The numerator of `g_raw` (R124). -/
def greenNum (y u v : Byte) : Int :=
  298 * ((y.toNat : Int) - 16) - 100 * ((u.toNat : Int) - 128) - 208 * ((v.toNat : Int) - 128) + 128

/-- The numerator of `b_raw` (R124). -/
def blueNum (y u : Byte) : Int := 298 * ((y.toNat : Int) - 16) + 516 * ((u.toNat : Int) - 128) + 128

/-- The clamped red component (R124, R125). -/
def red (y v : Byte) : Byte := clamp255 (sra (redNum y v) 8)

/-- The clamped green component (R124, R125). -/
def green (y u v : Byte) : Byte := clamp255 (sra (greenNum y u v) 8)

/-- The clamped blue component (R124, R125). -/
def blue (y u : Byte) : Byte := clamp255 (sra (blueNum y u) 8)

/-- `pixel(y, u, v)`, the packed word with alpha 255 (R127). -/
def pixelWord (y u v : Byte) : Word :=
  255#32 <<< 24 ||| (red y v).zeroExtend 32 <<< 16 ||| (green y u v).zeroExtend 32 <<< 8 ||| (blue y u).zeroExtend 32

/-- The arguments of a `CONVERT` that passed the checks (R120): dimensions and strides in pixels and bytes, and the
addresses of the first byte of each plane and of the output. -/
structure Frame where
  w : Nat
  h : Nat
  ys : Nat
  uvs : Nat
  yBase : Nat
  uBase : Nat
  vBase : Nat
  dst : Nat
deriving DecidableEq, Repr

/-- What the checks of R122 answer. -/
inductive ConvertPlan where
  | trap (c : Cause)
  | empty
  | frame (f : Frame)
deriving DecidableEq, Repr

/-- The written range meets a plane region: check 9 of R122 for one plane. -/
def overlaps (dst size : Nat) (base len : Word) : Bool :=
  decide (0 < len.toNat ∧ dst < base.toNat + len.toNat ∧ base.toNat < dst + size)

/-- `convert_check()` (R122), check by check in its order; a zero dimension ends the checks (R123). -/
def convertCheck (s : State) : ConvertPlan :=
  let w := signed32 s.width
  let h := signed32 s.height
  let ys := signed32 s.yStride
  let uvs := signed32 s.uvStride
  let iuv := sra (h - 1) 1 * uvs + sra (w - 1) 1
  let size := 4 * w.toNat * h.toNat
  if w < 0 ∨ h < 0 then .trap .negDim
  else if w = 0 ∨ h = 0 then .empty
  else if ys < 0 ∨ uvs < 0 then .trap .negStride
  else if regionWraps s.yBase s.yLen || regionWraps s.uBase s.uLen || regionWraps s.vBase s.vLen
      || regionWraps s.dstBase s.dstCap then .trap .regionWrap
  else if (h - 1) * ys + (w - 1) ≥ s.yLen.toNat then .trap .yBounds
  else if iuv ≥ s.uLen.toNat then .trap .uBounds
  else if iuv ≥ s.vLen.toNat then .trap .vBounds
  else if size > s.dstCap.toNat then .trap .dstCap
  else if overlaps s.dstBase.toNat size s.yBase s.yLen || overlaps s.dstBase.toNat size s.uBase s.uLen
      || overlaps s.dstBase.toNat size s.vBase s.vLen then .trap .overlap
  else .frame { w := w.toNat, h := h.toNat, ys := ys.toNat, uvs := uvs.toNat, yBase := s.yBase.toNat,
                uBase := s.uBase.toNat, vBase := s.vBase.toNat, dst := s.dstBase.toNat }

/-- The address of the luma sample of (px, py) (R121). -/
def lumaAddr (f : Frame) (px py : Nat) : Nat := f.yBase + py * f.ys + px

/-- The chroma index of (px, py): sample replication, one chroma sample for a 2x2 block (R121). -/
def chromaIndex (f : Frame) (px py : Nat) : Nat := (py / 2) * f.uvs + px / 2

/-- The address of the output pixel (px, py) (R128, R129). -/
def pixelAddr (f : Frame) (px py : Nat) : Nat := f.dst + 4 * (py * f.w + px)

/-- The luma sample of (px, py) (R121). -/
def lumaAt (f : Frame) (m : Memory) (px py : Nat) : Byte := Memory.read m (lumaAddr f px py)

/-- The U sample of (px, py) (R121). -/
def uAt (f : Frame) (m : Memory) (px py : Nat) : Byte := Memory.read m (f.uBase + chromaIndex f px py)

/-- The V sample of (px, py) (R121). -/
def vAt (f : Frame) (m : Memory) (px py : Nat) : Byte := Memory.read m (f.vBase + chromaIndex f px py)

/-- The body of the loop of `CONVERT.W` (R128): one little-endian word store. -/
def storePixelW (f : Frame) (px py : Nat) (m : Memory) : Memory :=
  Memory.writeWord m (pixelAddr f px py) (pixelWord (lumaAt f m px py) (uAt f m px py) (vAt f m px py))

/-- The body of the loop of `CONVERT.B` (R129): the bytes B, G, R, 255. -/
def storePixelB (f : Frame) (px py : Nat) (m : Memory) : Memory :=
  let y := lumaAt f m px py
  let u := uAt f m px py
  let v := vAt f m px py
  Memory.writeBytes m (pixelAddr f px py) [blue y u, green y u v, red y v, 255]

/-- `for i in 0 .. n-1`, in increasing order (R8). -/
def loop (n : Nat) (body : Nat → Memory → Memory) (m : Memory) : Memory :=
  match n with
  | 0 => m
  | k + 1 => body k (loop k body m)

/-- The loops of R128 and R129: row-major, row `py` then column `px`. -/
def convertFrame (store : Frame → Nat → Nat → Memory → Memory) (f : Frame) (m : Memory) : Memory :=
  loop f.h (fun py => loop f.w (fun px => store f px py)) m

/-- `CONVERT` past the latch, for one output form (R128, R129). -/
def convert (store : Frame → Nat → Nat → Memory → Memory) (s : State) : State :=
  match convertCheck s with
  | .trap c => raise (.contractViolation c) s
  | .empty => s.setDstLen 0
  | .frame f => (s.setMem (convertFrame store f s.mem)).setDstLen (BitVec.ofNat 32 (4 * f.w * f.h))

/-- `CONVERT.W` (R128). -/
def execConvertW (s : State) : Host.Outcome State Fault Refusal := command (convert storePixelW) s

/-- `CONVERT.B` (R129). -/
def execConvertB (s : State) : Host.Outcome State Fault Refusal := command (convert storePixelB) s

end Sys2Proof.Machine
end

