-- ==== Sys2Proof/Machine/Dispatch.lean ====
section
/-! DEFINITION. One arm per command (30_encoding.md R62): its meaning. -/

namespace Sys2Proof.Machine

def exec (i : Instr) (s : State) : Host.Outcome State Fault Refusal :=
  match i with
  | .extB ord => Sys2Proof.Machine.execExtB ord s
  | .extHBe => Sys2Proof.Machine.execExtHBe s
  | .extHLe => Sys2Proof.Machine.execExtHLe s
  | .extWBe => Sys2Proof.Machine.execExtWBe s
  | .extWLe => Sys2Proof.Machine.execExtWLe s
  | .extDBe => Sys2Proof.Machine.execExtDBe s
  | .extDLe => Sys2Proof.Machine.execExtDLe s
  | .composeB ord => Sys2Proof.Machine.execComposeB ord s
  | .composeHBe => Sys2Proof.Machine.execComposeHBe s
  | .composeHLe => Sys2Proof.Machine.execComposeHLe s
  | .composeWBe => Sys2Proof.Machine.execComposeWBe s
  | .composeWLe => Sys2Proof.Machine.execComposeWLe s
  | .composeDBe => Sys2Proof.Machine.execComposeDBe s
  | .composeDLe => Sys2Proof.Machine.execComposeDLe s
  | .sumclr => Sys2Proof.Machine.execSumclr s
  | .sumadd => Sys2Proof.Machine.execSumadd s
  | .swap => Sys2Proof.Machine.execSwap s
  | .unswap => Sys2Proof.Machine.execUnswap s
  | .convertW => Sys2Proof.Machine.execConvertW s
  | .convertB => Sys2Proof.Machine.execConvertB s
  | .clrerr => Sys2Proof.Machine.execClrerr s

end Sys2Proof.Machine
end

