-- ==== Sys2Proof/Machine/Registers.lean ====
section
/-! DEFINITION. The register block as the host sees it (10_state.md R11): offsets, access rights, reads and writes
(43_control.md R151, R153). -/

namespace Sys2Proof.Machine

/-- The 29 register words (R10, R11). -/
inductive Reg where
  | cmd
  | status
  | curBase
  | curLen
  | curPos
  | operandLo
  | operandHi
  | resultLo
  | resultHi
  | accLo
  | accHi
  | pixel
  | alpha
  | outBase
  | outCap
  | outPos
  | yBase
  | yLen
  | uBase
  | uLen
  | vBase
  | vLen
  | width
  | height
  | yStride
  | uvStride
  | dstBase
  | dstCap
  | dstLen
deriving DecidableEq, Repr

/-- The registers in the order of the table of R11, one word each from offset 0. -/
def regTable : List (BitVec 8 × Reg) :=
  [ (0x00, .cmd), (0x04, .status), (0x08, .curBase), (0x0C, .curLen), (0x10, .curPos), (0x14, .operandLo),
    (0x18, .operandHi), (0x1C, .resultLo), (0x20, .resultHi), (0x24, .accLo), (0x28, .accHi), (0x2C, .pixel),
    (0x30, .alpha), (0x34, .outBase), (0x38, .outCap), (0x3C, .outPos), (0x40, .yBase), (0x44, .yLen),
    (0x48, .uBase), (0x4C, .uLen), (0x50, .vBase), (0x54, .vLen), (0x58, .width), (0x5C, .height),
    (0x60, .yStride), (0x64, .uvStride), (0x68, .dstBase), (0x6C, .dstCap), (0x70, .dstLen) ]

/-- The register at an offset; none at a reserved offset (R26). -/
def regAt (off : BitVec 8) : Option Reg := (regTable.find? (fun p => p.1 == off)).map Prod.snd

/-- The platform address of an offset of the block (R11). -/
def platformAddr (off : BitVec 8) : Nat := Config.regBase + off.toNat

/-- The low half of a 64-bit register (R42). -/
def loHalf (v : DWord) : Word := v.extractLsb' 0 32

/-- The high half of a 64-bit register (R42). -/
def hiHalf (v : DWord) : Word := v.extractLsb' 32 32

/-- What a host read of a register returns, unused bits 0 (R153); `CMD` reads 0 (R20). -/
def readReg (r : Reg) (s : State) : Word :=
  match r with
  | .cmd => 0
  | .status => statusWord s
  | .curBase => s.curBase
  | .curLen => s.curLen
  | .curPos => s.curPos
  | .operandLo => loHalf s.operand
  | .operandHi => hiHalf s.operand
  | .resultLo => loHalf s.result
  | .resultHi => hiHalf s.result
  | .accLo => loHalf s.acc
  | .accHi => hiHalf s.acc
  | .pixel => s.pixel
  | .alpha => s.alpha.zeroExtend 32
  | .outBase => s.outBase
  | .outCap => s.outCap
  | .outPos => s.outPos
  | .yBase => s.yBase
  | .yLen => s.yLen
  | .uBase => s.uBase
  | .uLen => s.uLen
  | .vBase => s.vBase
  | .vLen => s.vLen
  | .width => s.width
  | .height => s.height
  | .yStride => s.yStride
  | .uvStride => s.uvStride
  | .dstBase => s.dstBase
  | .dstCap => s.dstCap
  | .dstLen => s.dstLen

/-- The effect of a host write on a register (R151): an `RW` register takes the value, an `RO` register keeps its own.
A write of `CMD` stores nothing (R20); the command it starts is `commandWrite`. -/
def writeReg (r : Reg) (v : Word) (s : State) : State :=
  match r with
  | .cmd => s
  | .status => s
  | .curBase => { s with curBase := v }
  | .curLen => { s with curLen := v }
  | .curPos => { s with curPos := v }
  | .operandLo => { s with operand := hiHalf s.operand ++ v }
  | .operandHi => { s with operand := v ++ loHalf s.operand }
  | .resultLo => s
  | .resultHi => s
  | .accLo => s
  | .accHi => s
  | .pixel => { s with pixel := v }
  | .alpha => { s with alpha := v.extractLsb' 0 8 }
  | .outBase => { s with outBase := v }
  | .outCap => { s with outCap := v }
  | .outPos => { s with outPos := v }
  | .yBase => { s with yBase := v }
  | .yLen => { s with yLen := v }
  | .uBase => { s with uBase := v }
  | .uLen => { s with uLen := v }
  | .vBase => { s with vBase := v }
  | .vLen => { s with vLen := v }
  | .width => { s with width := v }
  | .height => { s with height := v }
  | .yStride => { s with yStride := v }
  | .uvStride => { s with uvStride := v }
  | .dstBase => { s with dstBase := v }
  | .dstCap => { s with dstCap := v }
  | .dstLen => s

/-- What a host read at an offset returns; reserved offsets read 0 (R26, R153). -/
def readOffset (off : BitVec 8) (s : State) : Word :=
  match regAt off with
  | some r => readReg r s
  | none => 0

/-- The effect of a host write at an offset other than that of `CMD`; reserved offsets ignore it (R26, R151). -/
def writeOffset (off : BitVec 8) (v : Word) (s : State) : State :=
  match regAt off with
  | some r => writeReg r v s
  | none => s

end Sys2Proof.Machine
end

