-- ==== Sys2Proof/Machine/HostPort.lean ====
section
/-! DEFINITION. The steps of the host (70_reset_and_hazards.md R199): the command step (43_control.md R150), register
and memory accesses, reset. -/

namespace Sys2Proof.Machine

/-- The command step: a host write of `w` to `CMD` (R150). The latch is looked at by every command's own front end
(`command`; log entry 8): while an error is latched every word but that of `CLRERR` changes nothing (R168). -/
def commandWrite (w : Word) (s : State) : Host.Outcome State Fault Refusal :=
  match decode w with
  | .ok i => exec i s
  | .error _ => command (raise (.contractViolation .illegalCmd)) s

/-- The bytes a command may write, as (address, number) (R45, R191): none for a command that is ignored, traps or
writes no memory. -/
def writeRange (w : Word) (s : State) : Nat × Nat :=
  if s.err ≠ 0#2 then (0, 0)
  else
    match decode w with
    | .ok .swap =>
      if regionWraps s.outBase s.outCap ∨ s.outCap.toNat < s.outPos.toNat + 4 then (0, 0) else (outAddr s, 4)
    | .ok .convertW | .ok .convertB =>
      match convertCheck s with
      | .frame f => (f.dst, 4 * f.w * f.h)
      | _ => (0, 0)
    | _ => (0, 0)

/-- `n` free bytes (`Config.freeByte`, from number `k`) at ascending addresses from `a`. -/
def fillFree (m : Memory) (a n k : Nat) : Memory :=
  Memory.writeBytes m a ((List.range n).map (fun i => Config.freeByte (k + i)))

/-- A reset that falls while the command `w` runs (R191, U8): registers as after reset, every byte of the interrupted
command's write range arbitrary (log entry 7). -/
def resetInside (w : Word) (s : State) : State :=
  let r := writeRange w s
  resetEvent ((s.setMem (fillFree s.mem r.1 r.2 s.freeCount)).useFree r.2)

/-- One host step. Accesses that are not aligned 32-bit words are no steps of the host (R153) and are refused; a memory
access must lie inside `M` (R40). -/
def hostStep (h : HostStep) (s : State) : Host.Outcome State Fault Refusal :=
  match h with
  | .writeReg off v =>
    if off.toNat % 4 ≠ 0 then .refused (.misalignedRegisterAccess off)
    else if off = 0#8 then commandWrite v s
    else .next (writeOffset off v s)
  | .readReg off =>
    if off.toNat % 4 ≠ 0 then .refused (.misalignedRegisterAccess off)
    else .next (s.addReply (.word (readOffset off s)))
  | .oddAccess size _ => .refused (.registerAccessNotAWord size)
  | .writeMem a bs =>
    if a + bs.length ≤ Config.memSize then .next (s.setMem (Memory.writeBytes s.mem a bs)) else .fault (.noSuchAddress a)
  | .readMem a n =>
    if a + n ≤ Config.memSize then .next (s.addReply (.bytes (Memory.readBytes s.mem a n))) else .fault (.noSuchAddress a)
  | .reset => .next (resetEvent s)
  | .resetDuring w => .next (resetInside w s)

/-- One step of the machine: the host's oldest access, taken off its queue. With no host access nothing happens: the
core never steps on its own (00_scope.md section 8), and state survives (R180; log entry 4). -/
def takeHostStep (s : State) : Host.Outcome State Fault Refusal :=
  match s.hostQueue with
  | [] => .next s
  | h :: rest => hostStep h (s.setQueue rest)

end Sys2Proof.Machine
end

