-- ==== Sys2Proof/Machine/Step.lean ====
section
/-! DEFINITION. The step of the machine, and the placing of a command where the next step takes it from. -/

namespace Sys2Proof.Machine

/-- One step: the host's next access (R150, R151, R153, R190). -/
def step (s : State) : Host.Outcome State Fault Refusal := takeHostStep s

/-- `s` with the host about to write the command word to `CMD`: the very next step runs it (log entry 2). -/
def State.withFetchWord (s : State) (nbits w : Nat) : State :=
  s.setQueue (.writeReg 0x00#8 (tableWord nbits w) :: s.hostQueue)

end Sys2Proof.Machine
end

