-- ==== Sys2Proof/Machine/Script.lean ====
section
/-! DEFINITION. The pseudo-instructions of 30_encoding.md R70: shorthand for host steps, none a command of its own. -/

namespace Sys2Proof.Machine

/-- The three planes of a frame (R23). -/
inductive Plane where
  | y
  | u
  | v
deriving DecidableEq, Repr

/-- `<mnemonic>`: a command, its word written to `CMD` (R69). -/
def scriptCommand (i : Instr) : List HostStep := [.writeReg 0x00 (encode i)]

/-- `wr64 OPERAND, v`. -/
def scriptWriteOperand (v : DWord) : List HostStep := [.writeReg 0x14 (loHalf v), .writeReg 0x18 (hiHalf v)]

/-- `rd64 RESULT`. -/
def scriptReadResult : List HostStep := [.readReg 0x1C, .readReg 0x20]

/-- `rd64 ACC`. -/
def scriptReadAcc : List HostStep := [.readReg 0x24, .readReg 0x28]

/-- `cursor base, len`. -/
def scriptCursor (base len : Word) : List HostStep := [.writeReg 0x08 base, .writeReg 0x0C len, .writeReg 0x10 0]

/-- `rewind`. -/
def scriptRewind : List HostStep := [.writeReg 0x10 0]

/-- `outbuf base, cap`. -/
def scriptOutbuf (base cap : Word) : List HostStep := [.writeReg 0x34 base, .writeReg 0x38 cap, .writeReg 0x3C 0]

/-- `plane X, base, len`. -/
def scriptPlane (x : Plane) (base len : Word) : List HostStep :=
  match x with
  | .y => [.writeReg 0x40 base, .writeReg 0x44 len]
  | .u => [.writeReg 0x48 base, .writeReg 0x4C len]
  | .v => [.writeReg 0x50 base, .writeReg 0x54 len]

/-- `frame w, h, ys, uvs`. -/
def scriptFrame (w h ys uvs : Word) : List HostStep :=
  [.writeReg 0x58 w, .writeReg 0x5C h, .writeReg 0x60 ys, .writeReg 0x64 uvs]

/-- `dst base, cap`. -/
def scriptDst (base cap : Word) : List HostStep := [.writeReg 0x68 base, .writeReg 0x6C cap]

/-- One value of `sum`: `wr64 OPERAND, v` then `sumadd`. -/
def scriptAddValue (v : DWord) : List HostStep := scriptWriteOperand v ++ scriptCommand .sumadd

/-- `sum v1, ..., vk` (R70, R100). -/
def scriptSum (vs : List DWord) : List HostStep := scriptCommand .sumclr ++ vs.flatMap scriptAddValue

/-- `remaining`: the two reads. -/
def scriptRemaining : List HostStep := [.readReg 0x0C, .readReg 0x10]

/-- The value of `remaining` (R21, R70): `CUR_LEN - CUR_POS`, or 0 past the end. -/
def remainingBytes (s : State) : Nat := s.curLen.toNat - s.curPos.toNat

/-- The remaining capacity of the output cursor (R22). -/
def remainingCapacity (s : State) : Nat := s.outCap.toNat - s.outPos.toNat

end Sys2Proof.Machine
end

