-- ==== Sys2Proof/Safety.lean ====
section
/-! DEFINITION. The terms in which claims are stated: the invariant, the trapped state, what a command's rule says. They
are written from the spec in plain arithmetic, apart from the meanings. -/

namespace Sys2Proof.Machine

/-- The legal values of `STATUS` (R19, R161, R162): no error, `OutOfData` with cause 0, `ContractViolation` with a cause
1 .. 10. -/
abbrev legalStatus (s : State) : Prop :=
  (s.err = 0 ∧ s.cause = 0) ∨ (s.err = 1 ∧ s.cause = 0) ∨ (s.err = 2 ∧ 1 ≤ s.cause.toNat ∧ s.cause.toNat ≤ 10)

/-- The invariant of the machine: `M` keeps its canonical form inside 0 .. 2^32 - 1 (R40), `STATUS` stays legal. -/
abbrev Inv (s : State) : Prop := Memory.wf s.mem = true ∧ legalStatus s

/-- The state after a trap (R166): `s` but for `STATUS`. -/
def trapped (e : BitVec 2) (c : BitVec 4) (s : State) : State := { s with err := e, cause := c }

/-- Byte `i` from the input cursor: `M[CUR_BASE + CUR_POS + i]` (R45). -/
def cursorByte (s : State) (i : Nat) : Byte := Memory.read s.mem (s.curBase.toNat + s.curPos.toNat + i)

/-- Byte lane `i` of `OPERAND` (R14). -/
def operandByte (s : State) (i : Nat) : Byte := s.operand.extractLsb' (8 * i) 8

/-- The cursor region is well formed and `n` bytes remain (R81). -/
abbrev cursorHas (s : State) (n : Nat) : Prop :=
  s.curBase.toNat + s.curLen.toNat ≤ 2 ^ 32 ∧ s.curPos.toNat + n ≤ s.curLen.toNat

/-- What a rule of the form R83 to R89 says of a command that reads `n` bytes and gives `value`: the two traps in
their order, and the effect. -/
def ExtRule (i : Instr) (n : Nat) (value : State → DWord) : Prop :=
  ∀ s : State, s.err = 0 →
    (2 ^ 32 < s.curBase.toNat + s.curLen.toNat → exec i s = .next (trapped 2 2 s)) ∧
    (s.curBase.toNat + s.curLen.toNat ≤ 2 ^ 32 → s.curLen.toNat < s.curPos.toNat + n →
      exec i s = .next (trapped 1 0 s)) ∧
    (cursorHas s n → ∃ p : Word, p.toNat = s.curPos.toNat + n ∧
      exec i s = .next { s with result := value s, curPos := p })

/-- What a rule of the form R92 to R98 says of a command: `RESULT` and nothing else, no exception. -/
def ComposeRule (i : Instr) (value : State → DWord) : Prop :=
  ∀ s : State, s.err = 0 → exec i s = .next { s with result := value s }

/-- The seven `EXT` commands with their byte counts and orders (R62). -/
def extRows : List (Instr × Nat × ByteOrder) :=
  [(.extB .be, 1, .be), (.extB .le, 1, .le), (.extHBe, 2, .be), (.extHLe, 2, .le), (.extWBe, 4, .be),
   (.extWLe, 4, .le), (.extDBe, 8, .be), (.extDLe, 8, .le)]

/-- The seven `COMPOSE` commands with their byte counts and orders (R62). -/
def composeRows : List (Instr × Nat × ByteOrder) :=
  [(.composeB .be, 1, .be), (.composeB .le, 1, .le), (.composeHBe, 2, .be), (.composeHLe, 2, .le),
   (.composeWBe, 4, .be), (.composeWLe, 4, .le), (.composeDBe, 8, .be), (.composeDLe, 8, .le)]

/-- The registers the host may write (R11, access `RW`). -/
def rwOffsets : List (BitVec 8) :=
  [0x08, 0x0C, 0x10, 0x14, 0x18, 0x2C, 0x30, 0x34, 0x38, 0x3C, 0x40, 0x44, 0x48, 0x4C, 0x50, 0x54, 0x58, 0x5C,
   0x60, 0x64, 0x68, 0x6C]

/-- The output region is well formed and 4 bytes of capacity remain (R111). -/
abbrev outHasPixel (s : State) : Prop :=
  s.outBase.toNat + s.outCap.toNat ≤ 2 ^ 32 ∧ s.outPos.toNat + 4 ≤ s.outCap.toNat

/-- The written range `[DST_BASE, DST_BASE + 4*w*h)` meets a non-empty plane region (R56, check 9 of R122). -/
abbrev meetsPlane (s : State) (base len : Word) : Prop :=
  0 < len.toNat ∧ s.dstBase.toNat < base.toNat + len.toNat ∧
    (base.toNat : Int) < s.dstBase.toNat + 4 * s.width.toInt * s.height.toInt

/-- A plane or the destination runs past the top of memory (check 4 of R122). -/
abbrev frameWraps (s : State) : Prop :=
  2 ^ 32 < s.yBase.toNat + s.yLen.toNat ∨ 2 ^ 32 < s.uBase.toNat + s.uLen.toNat ∨
    2 ^ 32 < s.vBase.toNat + s.vLen.toNat ∨ 2 ^ 32 < s.dstBase.toNat + s.dstCap.toNat

/-- The largest luma index (check 5 of R122). -/
def lastLuma (s : State) : Int := (s.height.toInt - 1) * s.yStride.toInt + (s.width.toInt - 1)

/-- The largest chroma index, `iuv` of R122. -/
def lastChroma (s : State) : Int := ((s.height.toInt - 1) / 2) * s.uvStride.toInt + (s.width.toInt - 1) / 2

/-- Every check of R122 passes and the frame is not empty. -/
abbrev convertAccepts (s : State) : Prop :=
  0 < s.width.toInt ∧ 0 < s.height.toInt ∧ 0 ≤ s.yStride.toInt ∧ 0 ≤ s.uvStride.toInt ∧ ¬ frameWraps s ∧
    lastLuma s < s.yLen.toNat ∧ lastChroma s < s.uLen.toNat ∧ lastChroma s < s.vLen.toNat ∧
    4 * s.width.toInt * s.height.toInt ≤ s.dstCap.toNat ∧
    ¬ meetsPlane s s.yBase s.yLen ∧ ¬ meetsPlane s s.uBase s.uLen ∧ ¬ meetsPlane s s.vBase s.vLen

/-- The luma sample of (px, py) (R121), as a number. -/
def lumaSample (s : State) (px py : Nat) : Int :=
  (Memory.read s.mem (s.yBase.toNat + py * s.yStride.toNat + px)).toNat

/-- The chroma sample of (px, py) in the plane at `base` (R121), as a number. -/
def chromaSample (s : State) (base : Word) (px py : Nat) : Int :=
  (Memory.read s.mem (base.toNat + ((py / 2) * s.uvStride.toNat + px / 2))).toNat

/-- `clamp255(x >> 8)` (R6, R7, R125) in plain arithmetic. -/
def clampShifted (x : Int) : Int := max 0 (min 255 (x / 256))

/-- Red of (px, py) (R124, R125). -/
def redSample (s : State) (px py : Nat) : Int :=
  clampShifted (298 * (lumaSample s px py - 16) + 409 * (chromaSample s s.vBase px py - 128) + 128)

/-- Green of (px, py) (R124, R125). -/
def greenSample (s : State) (px py : Nat) : Int :=
  clampShifted (298 * (lumaSample s px py - 16) - 100 * (chromaSample s s.uBase px py - 128)
    - 208 * (chromaSample s s.vBase px py - 128) + 128)

/-- Blue of (px, py) (R124, R125). -/
def blueSample (s : State) (px py : Nat) : Int :=
  clampShifted (298 * (lumaSample s px py - 16) + 516 * (chromaSample s s.uBase px py - 128) + 128)

/-- The address of output byte `j` of pixel (px, py) (R45). -/
def outputAddr (s : State) (px py j : Nat) : Nat := s.dstBase.toNat + 4 * (py * s.width.toNat + px) + j

/-- Two states hold the same bytes in the region at `base` of `len` bytes. -/
def samePlane (s s' : State) (base len : Word) : Prop :=
  ∀ k, k < len.toNat → Memory.read s.mem (base.toNat + k) = Memory.read s'.mem (base.toNat + k)

/-- The word is that of `SWAP` (R62) and `SWAP` writes a pixel: no error is latched and no check fails (R111). -/
abbrev swapsUnder (w : Word) (s : State) : Prop := w.toNat = 0x05 ∧ s.err = 0 ∧ outHasPixel s

/-- The word is that of `CONVERT.W` or `CONVERT.B` (R62) and `CONVERT` writes a frame: no error is latched and no check
fails (R122). -/
abbrev convertsUnder (w : Word) (s : State) : Prop :=
  (w.toNat = 0x07 ∨ w.toNat = 0x87) ∧ s.err = 0 ∧ convertAccepts s

/-- From `s` to `t` the `n` bytes at `a` took the next `n` free values, the count of them grew by `n`, and every other
byte reads as before (R191, U8). -/
def freeRange (s t : State) (a n : Nat) : Prop :=
  (∀ k, k < n → Memory.read t.mem (a + k) = Config.freeByte (s.freeCount + k)) ∧ t.freeCount = s.freeCount + n ∧
    ∀ x, x < a ∨ a + n ≤ x → Memory.read t.mem x = Memory.read s.mem x

/-- `k` steps, ending at the first that answers no next state. -/
def run : Nat → State → Host.Outcome State Fault Refusal
  | 0, s => .next s
  | k + 1, s =>
    match step s with
    | .next t => run k t
    | .fault r => .fault r
    | .refused r => .refused r

/-- The registers of the core equal those of the reset state: all 0 (R29, R190). -/
def registersReset (s : State) : Prop :=
  s = { State.reset with mem := s.mem, hostQueue := s.hostQueue, replies := s.replies, freeCount := s.freeCount }

end Sys2Proof.Machine
end

