-- ==== Sys2Proof/Certificates/Slice0/Obligations.lean ====
section
/-! DEFINITION. The statements about WMT-CORE, from the numbered rules of spec/. -/

open Sys2Proof Sys2Proof.Machine

/-! ### Command words (30_encoding.md) -/

/-- Decode and encode agree: every well-formed command's word decodes to it, and a word that decodes to a command is
that command's word. -/
def Obligations.DecodeEncodeAgree : Prop :=
  (∀ i : Instr, i.wf = true → decode (encode i) = .ok i) ∧
  (∀ (w : Word) (i : Instr), decode w = .ok i → i.wf = true ∧ encode i = w)

/-- R62: the map, as the rows with their match and mask. A word decodes to a command iff it selects that command's row,
the rows are pairwise disjoint, and a word that selects no row is illegal. -/
def Obligations.DecodeFollowsOpcodeMap : Prop :=
  (∀ (w : Word) (i : Instr), decode w = .ok i → ∃ r ∈ opcodeTable, r.mnemonic = i.mnemonic ∧ r.selects w = true) ∧
  (∀ (w : Word) (r : OpcodeRow), r ∈ opcodeTable → r.selects w = true →
    ∃ i : Instr, decode w = .ok i ∧ i.mnemonic = r.mnemonic) ∧
  (∀ w : Word, (∀ r ∈ opcodeTable, r.selects w = false) → ∀ i : Instr, decode w ≠ .ok i) ∧
  opcodeTable.Pairwise (fun r r' => ∀ w : Word, ¬ (r.selects w = true ∧ r'.selects w = true))

/-- R67: which words are illegal, that exactly 23 are legal, and what writing an illegal word to `CMD` does, without and
with an error latched. -/
def Obligations.IllegalWordsTrap : Prop :=
  (∀ w : Word, (∀ i : Instr, decode w ≠ .ok i) ↔
    (w.toNat / 256 ≠ 0 ∨ w.toNat % 16 = 0 ∨ 9 ≤ w.toNat % 16 ∨ (w.toNat / 128 % 2 = 1 ∧ w.toNat % 16 ≠ 7) ∨
      (w.toNat / 16 % 8 ≠ 0 ∧ w.toNat % 16 ≠ 1 ∧ w.toNat % 16 ≠ 2))) ∧
  (∀ w : Word, (∃ i : Instr, decode w = .ok i) ↔
    w.toNat ∈ [0x01, 0x11, 0x21, 0x31, 0x41, 0x51, 0x61, 0x71, 0x02, 0x12, 0x22, 0x32, 0x42, 0x52, 0x62, 0x72,
      0x03, 0x04, 0x05, 0x06, 0x07, 0x87, 0x08]) ∧
  (∀ (s : State) (rest : List HostStep) (w : Word), s.hostQueue = .writeReg 0x00 w :: rest →
    (∀ i : Instr, decode w ≠ .ok i) →
    (s.err = 0 → step s = .next { s with err := 2, cause := 1, hostQueue := rest }) ∧
    (s.err ≠ 0 → step s = .next { s with hostQueue := rest }))

/-- R62 on a few words, written bit by bit from its column "word bits 7:0". -/
def Obligations.SomeWordsDecode : Prop :=
  decode 0b00000000000000000000000000100001#32 = .ok .extHBe ∧
  decode 0b00000000000000000000000001110001#32 = .ok .extDLe ∧
  decode 0b00000000000000000000000000010010#32 = .ok (.composeB .le) ∧
  decode 0b00000000000000000000000000000100#32 = .ok .sumadd ∧
  decode 0b00000000000000000000000000000101#32 = .ok .swap ∧
  decode 0b00000000000000000000000010000111#32 = .ok .convertB ∧
  decode 0b00000000000000000000000000001000#32 = .ok .clrerr ∧
  (∀ i : Instr, decode 0b00000000000000000000000000000000#32 ≠ .ok i)

/-! ### The command step, the latch, traps (43_control.md, 60_exceptions.md) -/

/-- A step runs the decoded command: when the host's next access writes the word of `i` to `CMD`, the step is `exec i`
at the state with that access taken off the host's queue. -/
def Obligations.StepRunsDecodedCommand : Prop :=
  ∀ (s : State) (rest : List HostStep) (w : Word) (i : Instr), s.hostQueue = .writeReg 0x00 w :: rest →
    decode w = .ok i → i.wf = true → step s = exec i { s with hostQueue := rest }

/-- R150: the command step. Latched: `CLRERR` clears, any other word changes nothing. Not latched: an illegal word
raises `ILLEGAL_CMD`, a legal word runs its command. Every command ends in a next state. -/
def Obligations.CommandStepFollowsFrontEnd : Prop :=
  ∀ (s : State) (rest : List HostStep) (w : Word), s.hostQueue = .writeReg 0x00 w :: rest →
    (s.err ≠ 0 → w = 0x00000008 → step s = .next { s with err := 0, cause := 0, hostQueue := rest }) ∧
    (s.err ≠ 0 → w ≠ 0x00000008 → step s = .next { s with hostQueue := rest }) ∧
    (s.err = 0 → (∀ i : Instr, decode w ≠ .ok i) →
      step s = .next { s with err := 2, cause := 1, hostQueue := rest }) ∧
    (s.err = 0 → ∀ i : Instr, decode w = .ok i →
      ∃ t, exec i { s with hostQueue := rest } = .next t ∧ step s = .next t)

/-- While an error is latched every command but `CLRERR` changes nothing at all, and `CLRERR` clears the latch. -/
def Obligations.LatchedCommandsChangeNothing : Prop :=
  ∀ (i : Instr) (s : State), s.err ≠ 0 →
    (i ≠ .clrerr → exec i s = .next s) ∧ (i = .clrerr → exec i s = .next { s with err := 0, cause := 0 })

/-- R166: a command that raises an exception changes `STATUS` and nothing else, whichever command it is; an illegal
word too. The codes it leaves are those of R161 and R162. -/
def Obligations.TrapsChangeOnlyStatus : Prop :=
  (∀ (i : Instr) (s t : State), s.err = 0 → exec i s = .next t → t.err ≠ 0 →
    t = { s with err := t.err, cause := t.cause } ∧ legalStatus t) ∧
  (∀ (s t : State) (rest : List HostStep) (w : Word), s.hostQueue = .writeReg 0x00 w :: rest → s.err = 0 →
    step s = .next t → t.err ≠ 0 →
    t = { s with err := t.err, cause := t.cause, hostQueue := rest } ∧ legalStatus t)

/-- Which codes each command can leave (R162, column "raised by"): `EXT.*` and `UNSWAP`: `OutOfData` or `REGION_WRAP`;
`SWAP`: `REGION_WRAP` or `OUT_CAP`; `CONVERT.*`: causes 2 .. 9; every other command none. -/
def Obligations.CommandsRaiseOnlyTheirCauses : Prop :=
  ∀ (i : Instr) (s t : State), s.err = 0 → exec i s = .next t → t.err ≠ 0 →
    ((∃ r ∈ extRows, r.1 = i) ∧ ((t.err = 1 ∧ t.cause = 0) ∨ (t.err = 2 ∧ t.cause = 2))) ∨
    (i = .unswap ∧ ((t.err = 1 ∧ t.cause = 0) ∨ (t.err = 2 ∧ t.cause = 2))) ∨
    (i = .swap ∧ t.err = 2 ∧ (t.cause = 2 ∨ t.cause = 10)) ∨
    ((i = .convertW ∨ i = .convertB) ∧ t.err = 2 ∧ 2 ≤ t.cause.toNat ∧ t.cause.toNat ≤ 9)

/-- R152: `CLRERR` clears `ERR` and `CAUSE` and changes nothing else, latched or not. -/
def Obligations.ClrerrClearsLatch : Prop :=
  decode 0x00000008 = .ok .clrerr ∧
  (∀ s : State, exec .clrerr s = .next { s with err := 0, cause := 0 }) ∧
  (∀ s : State, s.err = 0 → s.cause = 0 → exec .clrerr s = .next s)

/-- After a trap, `CLRERR` gives back the state before the failed command, which then fails identically. -/
def Obligations.FailureRepeatsAfterClrerr : Prop :=
  ∀ (i : Instr) (s t : State), s.err = 0 → s.cause = 0 → exec i s = .next t → t.err ≠ 0 →
    exec .clrerr t = .next s ∧ ∀ u, exec .clrerr t = .next u → exec i u = .next t

/-! ### Whole-machine rules -/

/-- No command stops the machine: `exec` answers a next state for every command at every state, and a step does too for
every well-formed host access, taking it off the queue; an access that is not well formed has no next state. -/
def Obligations.StepsCompleteExactlyOnWellFormedAccesses : Prop :=
  (∀ (i : Instr) (s : State), ∃ t, exec i s = .next t) ∧
  (∀ (s : State) (h : HostStep) (rest : List HostStep), s.hostQueue = h :: rest →
    (h.wf = true → ∃ t, step s = .next t ∧ t.hostQueue = rest) ∧ (h.wf = false → ∀ t, step s ≠ .next t))

/-- The write half of the access matrix: no command writes a register that its column does not list, nor a byte of
memory unless it is `SWAP` or `CONVERT.*`, nor the host's own fields. -/
def Obligations.CommandsWriteOnlyTheirRegisters : Prop :=
  ∀ (i : Instr) (s t : State), exec i s = .next t →
    (t = { s with err := t.err, cause := t.cause, curPos := t.curPos, result := t.result, acc := t.acc,
                  pixel := t.pixel, outPos := t.outPos, dstLen := t.dstLen, mem := t.mem }) ∧
    ((∀ r ∈ extRows, r.1 ≠ i) → i ≠ .unswap → t.curPos = s.curPos) ∧
    ((∀ r ∈ extRows, r.1 ≠ i) → (∀ r ∈ composeRows, r.1 ≠ i) → t.result = s.result) ∧
    (i ≠ .sumclr → i ≠ .sumadd → t.acc = s.acc) ∧
    (i ≠ .unswap → t.pixel = s.pixel) ∧
    (i ≠ .swap → t.outPos = s.outPos) ∧
    (i ≠ .convertW → i ≠ .convertB → t.dstLen = s.dstLen) ∧
    (i ≠ .swap → i ≠ .convertW → i ≠ .convertB → t.mem = s.mem)

/-- The read half of the access matrix: from two states, both with no error latched, that agree on the registers a
command's row reads and on the bytes of `M` it may read (the bytes at the cursor, the bytes of the three planes), a
command leaves the same `STATUS` and, where it did not trap, the same values in what it writes. -/
def Obligations.CommandsDependOnlyOnTheirRegisters : Prop :=
  ∀ (s s' t t' : State), s.err = 0 → s'.err = 0 → s.cause = s'.cause →
    (∀ i n o, (i, n, o) ∈ extRows → s.curBase = s'.curBase → s.curLen = s'.curLen → s.curPos = s'.curPos →
      (∀ k, k < n → cursorByte s k = cursorByte s' k) → exec i s = .next t → exec i s' = .next t' →
      t.err = t'.err ∧ t.cause = t'.cause ∧ t.curPos = t'.curPos ∧ (t.err = 0 → t.result = t'.result)) ∧
    (∀ i n o, (i, n, o) ∈ composeRows → s.operand = s'.operand → exec i s = .next t → exec i s' = .next t' →
      t.err = t'.err ∧ t.cause = t'.cause ∧ t.result = t'.result) ∧
    (exec .sumclr s = .next t → exec .sumclr s' = .next t' → t.err = t'.err ∧ t.cause = t'.cause ∧ t.acc = t'.acc) ∧
    (s.operand = s'.operand → s.acc = s'.acc → exec .sumadd s = .next t → exec .sumadd s' = .next t' →
      t.err = t'.err ∧ t.cause = t'.cause ∧ t.acc = t'.acc) ∧
    (s.pixel = s'.pixel → s.alpha = s'.alpha → s.outBase = s'.outBase → s.outCap = s'.outCap →
      s.outPos = s'.outPos → exec .swap s = .next t → exec .swap s' = .next t' →
      t.err = t'.err ∧ t.cause = t'.cause ∧ t.outPos = t'.outPos ∧
        (t.err = 0 → ∀ k, k < 4 → Memory.read t.mem (outAddr s + k) = Memory.read t'.mem (outAddr s + k))) ∧
    (s.curBase = s'.curBase → s.curLen = s'.curLen → s.curPos = s'.curPos →
      (∀ k, k < 4 → cursorByte s k = cursorByte s' k) → exec .unswap s = .next t → exec .unswap s' = .next t' →
      t.err = t'.err ∧ t.cause = t'.cause ∧ t.curPos = t'.curPos ∧ (t.err = 0 → t.pixel = t'.pixel)) ∧
    (∀ i, i = .convertW ∨ i = .convertB →
      s.yBase = s'.yBase → s.yLen = s'.yLen → s.uBase = s'.uBase → s.uLen = s'.uLen → s.vBase = s'.vBase →
      s.vLen = s'.vLen → s.width = s'.width → s.height = s'.height → s.yStride = s'.yStride →
      s.uvStride = s'.uvStride → s.dstBase = s'.dstBase → s.dstCap = s'.dstCap →
      samePlane s s' s.yBase s.yLen → samePlane s s' s.uBase s.uLen → samePlane s s' s.vBase s.vLen →
      exec i s = .next t → exec i s' = .next t' →
      t.err = t'.err ∧ t.cause = t'.cause ∧
        (t.err = 0 → t.dstLen = t'.dstLen ∧ ∀ k, k < t.dstLen.toNat →
          Memory.read t.mem (s.dstBase.toNat + k) = Memory.read t'.mem (s.dstBase.toNat + k)))

/-- The invariant holds right after reset. -/
def Obligations.InvariantHoldsAfterReset : Prop := Inv State.reset

/-- Every step, command or host access, keeps the invariant: the memory stays in canonical form with every listed
address below 2^32, and `STATUS` stays one of its legal values. -/
def Obligations.StepKeepsInvariant : Prop :=
  ∀ s t : State, Inv s → step s = .next t → Inv t

/-! ### BinaryReader (40_binary_reader.md) -/

/-- R83: `EXT.B`, both words. -/
def Obligations.ExtByteFollowsRule : Prop :=
  decode 0x00000001 = .ok (.extB .be) ∧ decode 0x00000011 = .ok (.extB .le) ∧
  ∀ o : ByteOrder, ExtRule (.extB o) 1 (fun s => (cursorByte s 0).signExtend 64)

/-- R84, R85: `EXT.H.BE` and `EXT.H.LE`. -/
def Obligations.ExtHalfFollowsRule : Prop :=
  decode 0x00000021 = .ok .extHBe ∧ decode 0x00000031 = .ok .extHLe ∧
  ExtRule .extHBe 2 (fun s => (cursorByte s 0 ++ cursorByte s 1).signExtend 64) ∧
  ExtRule .extHLe 2 (fun s => (cursorByte s 1 ++ cursorByte s 0).signExtend 64)

/-- R86, R87: `EXT.W.BE` and `EXT.W.LE`. -/
def Obligations.ExtWordFollowsRule : Prop :=
  decode 0x00000041 = .ok .extWBe ∧ decode 0x00000051 = .ok .extWLe ∧
  ExtRule .extWBe 4
    (fun s => (cursorByte s 0 ++ cursorByte s 1 ++ cursorByte s 2 ++ cursorByte s 3).signExtend 64) ∧
  ExtRule .extWLe 4
    (fun s => (cursorByte s 3 ++ cursorByte s 2 ++ cursorByte s 1 ++ cursorByte s 0).signExtend 64)

/-- R88, R89: `EXT.D.BE` and `EXT.D.LE`. -/
def Obligations.ExtDoubleFollowsRule : Prop :=
  decode 0x00000061 = .ok .extDBe ∧ decode 0x00000071 = .ok .extDLe ∧
  ExtRule .extDBe 8
    (fun s => cursorByte s 0 ++ cursorByte s 1 ++ cursorByte s 2 ++ cursorByte s 3 ++ cursorByte s 4 ++
      cursorByte s 5 ++ cursorByte s 6 ++ cursorByte s 7) ∧
  ExtRule .extDLe 8
    (fun s => cursorByte s 7 ++ cursorByte s 6 ++ cursorByte s 5 ++ cursorByte s 4 ++ cursorByte s 3 ++
      cursorByte s 2 ++ cursorByte s 1 ++ cursorByte s 0)

/-- At the end of the cursor: after an `EXT` that takes the last bytes the next `EXT` of any length runs out of data,
and an `EXT` that runs out of data consumes nothing, so that after `CLRERR` a shorter one still reads. -/
def Obligations.CursorEndBehaves : Prop :=
  ∀ (s : State) (i j : Instr) (n m : Nat) (o p : ByteOrder), (i, n, o) ∈ extRows → (j, m, p) ∈ extRows →
    s.err = 0 → s.cause = 0 → s.curBase.toNat + s.curLen.toNat ≤ 2 ^ 32 →
    (s.curPos.toNat + n = s.curLen.toNat →
      ∃ t, exec i s = .next t ∧ t.curPos = s.curLen ∧ exec j t = .next (trapped 1 0 t)) ∧
    (s.curLen.toNat < s.curPos.toNat + n → s.curPos.toNat + m ≤ s.curLen.toNat →
      ∃ t u, exec i s = .next t ∧ exec .clrerr t = .next u ∧ u = s ∧
        ∃ v, exec j u = .next v ∧ v.err = 0 ∧ v.curPos.toNat = s.curPos.toNat + m)

/-- What `RESULT` means after an `EXT` or a `COMPOSE` of `n` bytes: its low 8n bits are the composed value, and its
signed reading is the composed value read as an 8n-bit two's-complement number. -/
def Obligations.ResultHoldsSignedValue : Prop :=
  (∀ (s t : State) (i : Instr) (n : Nat) (o : ByteOrder), (i, n, o) ∈ extRows → s.err = 0 → cursorHas s n →
    exec i s = .next t →
    t.result.toNat % 2 ^ (8 * n) = compose ((List.range n).map (cursorByte s)) o ∧
    t.result.toInt = (compose ((List.range n).map (cursorByte s)) o : Int) -
      (if 2 ^ (8 * n - 1) ≤ compose ((List.range n).map (cursorByte s)) o then 2 ^ (8 * n) else 0)) ∧
  (∀ (s t : State) (i : Instr) (n : Nat) (o : ByteOrder), (i, n, o) ∈ composeRows → s.err = 0 →
    exec i s = .next t →
    t.result.toNat % 2 ^ (8 * n) = compose ((List.range n).map (operandByte s)) o ∧
    t.result.toInt = (compose ((List.range n).map (operandByte s)) o : Int) -
      (if 2 ^ (8 * n - 1) ≤ compose ((List.range n).map (operandByte s)) o then 2 ^ (8 * n) else 0))

/-- What the spec infers in R99 ("[derived: from rule R80]"): (a) reversal, (b) round trip, (c) a bijection between the
byte lists of length `n` and the 8n-bit values, for every `n`. -/
def Obligations.ComposeFunctionLaws : Prop :=
  (∀ bs : List Byte, compose bs .le = compose bs.reverse .be) ∧
  (∀ (n v : Nat) (o : ByteOrder), v < 2 ^ (8 * n) →
    (decompose v n o).length = n ∧ compose (decompose v n o) o = v) ∧
  (∀ (bs : List Byte) (o : ByteOrder), compose bs o < 2 ^ (8 * bs.length)) ∧
  (∀ (bs bs' : List Byte) (o : ByteOrder), bs.length = bs'.length → compose bs o = compose bs' o → bs = bs')

/-- R92: `COMPOSE.B`, both words. -/
def Obligations.ComposeByteFollowsRule : Prop :=
  decode 0x00000002 = .ok (.composeB .be) ∧ decode 0x00000012 = .ok (.composeB .le) ∧
  ∀ o : ByteOrder, ComposeRule (.composeB o) (fun s => (s.operand.extractLsb' 0 8).signExtend 64)

/-- R93, R95, R97: the big-endian `COMPOSE` commands; `COMPOSE.D.BE` of its own result gives the operand back. -/
def Obligations.ComposeBigEndianFollowsRule : Prop :=
  decode 0x00000022 = .ok .composeHBe ∧ decode 0x00000042 = .ok .composeWBe ∧ decode 0x00000062 = .ok .composeDBe ∧
  ComposeRule .composeHBe (fun s => (operandByte s 0 ++ operandByte s 1).signExtend 64) ∧
  ComposeRule .composeWBe
    (fun s => (operandByte s 0 ++ operandByte s 1 ++ operandByte s 2 ++ operandByte s 3).signExtend 64) ∧
  ComposeRule .composeDBe
    (fun s => operandByte s 0 ++ operandByte s 1 ++ operandByte s 2 ++ operandByte s 3 ++ operandByte s 4 ++
      operandByte s 5 ++ operandByte s 6 ++ operandByte s 7) ∧
  (∀ s : State, s.err = 0 → ∃ t u, exec .composeDBe s = .next t ∧
    exec .composeDBe { t with operand := t.result } = .next u ∧ u.result = s.operand)

/-- R94, R96, R98: the little-endian `COMPOSE` commands. -/
def Obligations.ComposeLittleEndianFollowsRule : Prop :=
  decode 0x00000032 = .ok .composeHLe ∧ decode 0x00000052 = .ok .composeWLe ∧ decode 0x00000072 = .ok .composeDLe ∧
  ComposeRule .composeHLe (fun s => (s.operand.extractLsb' 0 16).signExtend 64) ∧
  ComposeRule .composeWLe (fun s => (s.operand.extractLsb' 0 32).signExtend 64) ∧
  ComposeRule .composeDLe (fun s => s.operand)

/-- An `EXT` of bytes equals the `COMPOSE` of the same length and order with the same bytes in the lanes of `OPERAND`. -/
def Obligations.ExtAgreesWithCompose : Prop :=
  ∀ (s t u : State) (i j : Instr) (n : Nat) (o : ByteOrder), (i, n, o) ∈ extRows → (j, n, o) ∈ composeRows →
    s.err = 0 → cursorHas s n → (∀ k, k < n → operandByte s k = cursorByte s k) →
    exec i s = .next t → exec j s = .next u → t.result = u.result

/-- R101, R102: `SUMCLR` and `SUMADD`. -/
def Obligations.SumCommandsFollowRules : Prop :=
  decode 0x00000003 = .ok .sumclr ∧ decode 0x00000004 = .ok .sumadd ∧
  (∀ s : State, s.err = 0 → exec .sumclr s = .next { s with acc := 0 }) ∧
  (∀ s : State, s.err = 0 → ∃ a : DWord, a.toNat = (s.acc.toNat + s.operand.toNat) % 2 ^ 64 ∧
    exec .sumadd s = .next { s with acc := a })

/-- R100: the sum of a sequence. `SUMCLR`, then for each value a write of `OPERAND` and `SUMADD`, leaves in `ACC` the sum
modulo 2^64, whatever the sequence; nothing but `ACC` and `OPERAND` changes. -/
def Obligations.SumOfSequence : Prop :=
  ∀ (vs : List DWord) (rest : List HostStep) (s : State), s.err = 0 → s.hostQueue = scriptSum vs ++ rest →
    ∃ a p : DWord, a.toNat = (vs.map BitVec.toNat).sum % 2 ^ 64 ∧
      run (1 + 3 * vs.length) s = .next { s with acc := a, operand := p, hostQueue := rest }

/-! ### Layout swapper (41_layout_swap.md) -/

/-- R111: `SWAP`, its two traps in order, the four bytes, the cursor, and that nothing else changes; with
`ALPHA = PIXEL[31:24]` the bytes are those of the little-endian store of `PIXEL`. -/
def Obligations.SwapFollowsRule : Prop :=
  decode 0x00000005 = .ok .swap ∧
  ∀ s : State, s.err = 0 →
    (2 ^ 32 < s.outBase.toNat + s.outCap.toNat → exec .swap s = .next (trapped 2 2 s)) ∧
    (s.outBase.toNat + s.outCap.toNat ≤ 2 ^ 32 → s.outCap.toNat < s.outPos.toNat + 4 →
      exec .swap s = .next (trapped 2 10 s)) ∧
    (outHasPixel s → ∃ t, exec .swap s = .next t ∧ t = { s with mem := t.mem, outPos := t.outPos } ∧
      t.outPos.toNat = s.outPos.toNat + 4 ∧
      Memory.read t.mem (outAddr s) = s.pixel.extractLsb' 0 8 ∧
      Memory.read t.mem (outAddr s + 1) = s.pixel.extractLsb' 8 8 ∧
      Memory.read t.mem (outAddr s + 2) = s.pixel.extractLsb' 16 8 ∧
      Memory.read t.mem (outAddr s + 3) = s.alpha ∧
      (∀ a : Nat, (a < outAddr s ∨ outAddr s + 4 ≤ a) → Memory.read t.mem a = Memory.read s.mem a) ∧
      (s.alpha = s.pixel.extractLsb' 24 8 →
        ∀ a : Nat, Memory.read t.mem a = Memory.read (Memory.writeWord s.mem (outAddr s) s.pixel) a))

/-- R112: `UNSWAP`, its two traps in order, `PIXEL`, the cursor, and that nothing else changes; `EXT.W.LE` of the same
bytes puts the same low 32 bits in `RESULT`. -/
def Obligations.UnswapFollowsRule : Prop :=
  decode 0x00000006 = .ok .unswap ∧
  ∀ s : State, s.err = 0 →
    (2 ^ 32 < s.curBase.toNat + s.curLen.toNat → exec .unswap s = .next (trapped 2 2 s)) ∧
    (s.curBase.toNat + s.curLen.toNat ≤ 2 ^ 32 → s.curLen.toNat < s.curPos.toNat + 4 →
      exec .unswap s = .next (trapped 1 0 s)) ∧
    (cursorHas s 4 → ∃ p q : Word, p.toNat = s.curPos.toNat + 4 ∧
      q.toNat = (cursorByte s 3).toNat * 2 ^ 24 + (cursorByte s 2).toNat * 2 ^ 16 + (cursorByte s 1).toNat * 2 ^ 8 +
        (cursorByte s 0).toNat ∧
      exec .unswap s = .next { s with pixel := q, curPos := p } ∧
      ∃ u, exec .extWLe s = .next u ∧ u.result.extractLsb' 0 32 = q)

/-- What the spec infers in R113 ("[derived: from rules R111 and R112]"), the round trips. (a) `SWAP` then `UNSWAP` at
the same address gives `{ALPHA, PIXEL[23:0]}`; (b) with `ALPHA = PIXEL[31:24]` that is `PIXEL`; (c) `UNSWAP` then `SWAP`
at the same address with `ALPHA` set to the new `PIXEL[31:24]` rewrites the same bytes: no byte of memory differs. -/
def Obligations.SwapUnswapRoundTrip : Prop :=
  (∀ (s t : State) (cb cl cp : Word), s.err = 0 → outHasPixel s → exec .swap s = .next t →
    cb.toNat + cl.toNat ≤ 2 ^ 32 → cp.toNat + 4 ≤ cl.toNat → cb.toNat + cp.toNat = outAddr s →
    ∃ u, exec .unswap { t with curBase := cb, curLen := cl, curPos := cp } = .next u ∧
      u.pixel = s.alpha ++ s.pixel.extractLsb' 0 24 ∧
      (s.alpha = s.pixel.extractLsb' 24 8 → u.pixel = s.pixel)) ∧
  (∀ (s t : State) (ob oc op : Word), s.err = 0 → cursorHas s 4 → exec .unswap s = .next t →
    ob.toNat + oc.toNat ≤ 2 ^ 32 → op.toNat + 4 ≤ oc.toNat → ob.toNat + op.toNat = cursorAddr s →
    ∃ u, exec .swap { t with alpha := t.pixel.extractLsb' 24 8, outBase := ob, outCap := oc, outPos := op } = .next u ∧
      u.err = 0 ∧ ∀ a : Nat, Memory.read u.mem a = Memory.read s.mem a)

/-! ### YUV converter (42_yuv_convert.md) -/

/-- R122: the checks of `CONVERT` in their order, for both forms; the last clause says that a command past them raises
nothing. -/
def Obligations.ConvertChecksInOrder : Prop :=
  ∀ (i : Instr) (s : State), i = .convertW ∨ i = .convertB → s.err = 0 →
    if s.width.toInt < 0 ∨ s.height.toInt < 0 then exec i s = .next (trapped 2 3 s)
    else if s.width.toInt = 0 ∨ s.height.toInt = 0 then exec i s = .next { s with dstLen := 0 }
    else if s.yStride.toInt < 0 ∨ s.uvStride.toInt < 0 then exec i s = .next (trapped 2 4 s)
    else if frameWraps s then exec i s = .next (trapped 2 2 s)
    else if (s.yLen.toNat : Int) ≤ lastLuma s then exec i s = .next (trapped 2 5 s)
    else if (s.uLen.toNat : Int) ≤ lastChroma s then exec i s = .next (trapped 2 6 s)
    else if (s.vLen.toNat : Int) ≤ lastChroma s then exec i s = .next (trapped 2 7 s)
    else if (s.dstCap.toNat : Int) < 4 * s.width.toInt * s.height.toInt then exec i s = .next (trapped 2 8 s)
    else if meetsPlane s s.yBase s.yLen ∨ meetsPlane s s.uBase s.uLen ∨ meetsPlane s s.vBase s.vLen then
      exec i s = .next (trapped 2 9 s)
    else ∃ t, exec i s = .next t ∧ t.err = 0

/-- R123: a zero dimension gives an empty output whatever the other registers hold, and a negative one is tested
first. -/
def Obligations.ZeroDimensionConvertsNothing : Prop :=
  ∀ (i : Instr) (s : State), i = .convertW ∨ i = .convertB → s.err = 0 →
    (0 ≤ s.width.toInt → 0 ≤ s.height.toInt → s.width.toInt = 0 ∨ s.height.toInt = 0 →
      exec i s = .next { s with dstLen := 0 }) ∧
    (s.width.toInt = 0 → s.height.toInt < 0 → exec i s = .next (trapped 2 3 s))

/-- R128, R129 with R121, R124, R125, R127: an accepted frame. For every pixel the four output bytes are the clamped
blue, green and red of its luma sample and its replicated chroma samples, read from the memory before the command, and
255; `DST_LEN` is 4*w*h; no byte outside the output changes, nor any other register. -/
def Obligations.ConvertWritesFrame : Prop :=
  decode 0x00000007 = .ok .convertW ∧ decode 0x00000087 = .ok .convertB ∧
  ∀ (i : Instr) (s : State), i = .convertW ∨ i = .convertB → s.err = 0 → convertAccepts s →
    ∃ t, exec i s = .next t ∧ t = { s with mem := t.mem, dstLen := t.dstLen } ∧
      t.dstLen.toNat = 4 * s.width.toNat * s.height.toNat ∧
      (∀ px py : Nat, px < s.width.toNat → py < s.height.toNat →
        ((Memory.read t.mem (outputAddr s px py 0)).toNat : Int) = blueSample s px py ∧
        ((Memory.read t.mem (outputAddr s px py 1)).toNat : Int) = greenSample s px py ∧
        ((Memory.read t.mem (outputAddr s px py 2)).toNat : Int) = redSample s px py ∧
        Memory.read t.mem (outputAddr s px py 3) = 255) ∧
      (∀ a : Nat, (a < s.dstBase.toNat ∨ s.dstBase.toNat + 4 * s.width.toNat * s.height.toNat ≤ a) →
        Memory.read t.mem a = Memory.read s.mem a)

/-- What the spec infers in R130 ("[derived: from rules R128, R129 and `00_scope.md` rule R8]"): from equal start states
the two forms give identical end states, at every state; and after either, the little-endian word of element `py*w + px`
is the packed word of that pixel. -/
def Obligations.ConvertFormsAgree : Prop :=
  (∀ s : State, exec .convertW s = exec .convertB s) ∧
  (∀ (i : Instr) (s t : State) (px py : Nat), i = .convertW ∨ i = .convertB → s.err = 0 → convertAccepts s →
    exec i s = .next t → px < s.width.toNat → py < s.height.toNat →
    ((Memory.readWord t.mem (outputAddr s px py 0)).toNat : Int) =
      255 * 2 ^ 24 + redSample s px py * 2 ^ 16 + greenSample s px py * 2 ^ 8 + blueSample s px py)

/-- `CONVERT` never changes a byte of a plane, whatever the registers hold. -/
def Obligations.ConvertKeepsPlanes : Prop :=
  ∀ (i : Instr) (s t : State), i = .convertW ∨ i = .convertB → exec i s = .next t →
    ∀ (base len : Word) (k : Nat),
      (base, len) = (s.yBase, s.yLen) ∨ (base, len) = (s.uBase, s.uLen) ∨ (base, len) = (s.vBase, s.vLen) →
      k < len.toNat → Memory.read t.mem (base.toNat + k) = Memory.read s.mem (base.toNat + k)

/-- R132 (a) to (e) and (g): white, black, greys, out-of-range luma, an extreme, and alpha, of the pixel function. -/
def Obligations.PixelFunctionProperties : Prop :=
  pixelWord 235 128 128 = 0xFFFFFFFF ∧ pixelWord 16 128 128 = 0xFF000000 ∧
  (∀ y : Byte, red y 128 = green y 128 128 ∧ green y 128 128 = blue y 128 ∧
    ((red y 128).toNat : Int) = clampShifted (298 * ((y.toNat : Int) - 16) + 128)) ∧
  (sra (redNum 0 128) 8 = -19 ∧ red 0 128 = 0) ∧ (sra (redNum 255 128) 8 = 278 ∧ red 255 128 = 255) ∧
  (sra (redNum 255 255) 8 = 481 ∧ sra (greenNum 255 0 255) 8 = 225 ∧ sra (blueNum 255 0) 8 = 20 ∧
    pixelWord 255 0 255 = 0xFFFFE114) ∧
  (∀ y u v : Byte, (pixelWord y u v).extractLsb' 24 8 = 255)

/-- The ranges of the numerators and of the raw components, and that truncating division gives the same clamped
component although the raw value differs. -/
def Obligations.ColourRanges : Prop :=
  (∀ y v : Byte, -56992 ≤ redNum y v ∧ redNum y v ≤ 123293 ∧ -223 ≤ sra (redNum y v) 8 ∧ sra (redNum y v) 8 ≤ 481) ∧
  (∀ y u v : Byte, -43756 ≤ greenNum y u v ∧ greenNum y u v ≤ 110774 ∧ -171 ≤ sra (greenNum y u v) 8 ∧
    sra (greenNum y u v) 8 ≤ 432) ∧
  (∀ y u : Byte, -70688 ≤ blueNum y u ∧ blueNum y u ≤ 136882 ∧ -277 ≤ sra (blueNum y u) 8 ∧ sra (blueNum y u) 8 ≤ 534) ∧
  (∀ x : Int, clamp255 (sra x 8) = clamp255 (x.tdiv 256)) ∧ sra (-4640) 8 = -19 ∧ (-4640 : Int).tdiv 256 = -18

/-! ### The host: registers, memory, reset (43_control.md, 20_memory.md, 70_reset_and_hazards.md) -/

/-- R151: a register write. At any state, latched or not, an `RW` register takes the value (`ALPHA` its low byte), a
read-only register or a reserved offset keeps its own, every other register reads as before, and memory is unchanged. -/
def Obligations.HostRegisterWrite : Prop :=
  ∀ (s : State) (off : BitVec 8) (v : Word) (rest : List HostStep), s.hostQueue = .writeReg off v :: rest →
    off.toNat % 4 = 0 → off ≠ 0 →
    ∃ t, step s = .next t ∧ t.hostQueue = rest ∧ t.mem = s.mem ∧ t.replies = s.replies ∧ t.freeCount = s.freeCount ∧
      ∀ off' : BitVec 8, readOffset off' t =
        if off' = off ∧ off ∈ rwOffsets then (if off = 0x30 then v &&& 0xFF else v) else readOffset off' s

/-- R153: a register read. Every offset's value, unused bits 0, `CMD` and reserved offsets 0; nothing of the core
changes; an access that is not an aligned 32-bit word is refused. -/
def Obligations.HostRegisterRead : Prop :=
  (∀ (s : State) (off : BitVec 8) (rest : List HostStep), s.hostQueue = .readReg off :: rest → off.toNat % 4 = 0 →
    step s = .next { s with hostQueue := rest, replies := .word (readOffset off s) :: s.replies }) ∧
  (∀ s : State, ∀ p ∈ ([(0x00, 0), (0x04, 0#24 ++ s.cause ++ 0#2 ++ s.err), (0x08, s.curBase), (0x0C, s.curLen),
      (0x10, s.curPos), (0x14, s.operand.extractLsb' 0 32), (0x18, s.operand.extractLsb' 32 32),
      (0x1C, s.result.extractLsb' 0 32), (0x20, s.result.extractLsb' 32 32), (0x24, s.acc.extractLsb' 0 32),
      (0x28, s.acc.extractLsb' 32 32), (0x2C, s.pixel), (0x30, 0#24 ++ s.alpha), (0x34, s.outBase),
      (0x38, s.outCap), (0x3C, s.outPos), (0x40, s.yBase), (0x44, s.yLen), (0x48, s.uBase), (0x4C, s.uLen),
      (0x50, s.vBase), (0x54, s.vLen), (0x58, s.width), (0x5C, s.height), (0x60, s.yStride), (0x64, s.uvStride),
      (0x68, s.dstBase), (0x6C, s.dstCap), (0x70, s.dstLen)] : List (BitVec 8 × Word)), readOffset p.1 s = p.2) ∧
  (∀ (s : State) (off : BitVec 8), 0x74 ≤ off.toNat → readOffset off s = 0) ∧
  (∀ (s : State) (off : BitVec 8) (v : Word) (rest : List HostStep), off.toNat % 4 ≠ 0 →
    s.hostQueue = .readReg off :: rest ∨ s.hostQueue = .writeReg off v :: rest →
    step s = .refused (.misalignedRegisterAccess off)) ∧
  (∀ (s : State) (off : BitVec 8) (size : OddSize) (rest : List HostStep), s.hostQueue = .oddAccess size off :: rest →
    step s = .refused (.registerAccessNotAWord size))

/-- Host accesses to `M`: a write changes exactly the addressed bytes and no register; a read gives back the bytes and
changes nothing of the core. -/
def Obligations.HostMemoryAccess : Prop :=
  (∀ (s : State) (a : Nat) (bs : List Byte) (rest : List HostStep), s.hostQueue = .writeMem a bs :: rest →
    a + bs.length ≤ 2 ^ 32 → ∃ t, step s = .next t ∧ t = { s with mem := t.mem, hostQueue := rest } ∧
      (∀ k, (h : k < bs.length) → Memory.read t.mem (a + k) = bs[k]) ∧
      (∀ x, x < a ∨ a + bs.length ≤ x → Memory.read t.mem x = Memory.read s.mem x)) ∧
  (∀ (s : State) (a n : Nat) (rest : List HostStep), s.hostQueue = .readMem a n :: rest → a + n ≤ 2 ^ 32 →
    ∃ bs : List Byte, bs.length = n ∧ (∀ k, (h : k < bs.length) → bs[k] = Memory.read s.mem (a + k)) ∧
      step s = .next { s with hostQueue := rest, replies := .bytes bs :: s.replies })

/-- The model's choice (log entry 6): a host memory access that leaves the 2^32 bytes of `M` faults by name. -/
def Obligations.HostAccessOutsideMemoryFaults : Prop :=
  (∀ (s : State) (a : Nat) (bs : List Byte) (rest : List HostStep), s.hostQueue = .writeMem a bs :: rest →
    2 ^ 32 < a + bs.length → step s = .fault (.noSuchAddress a)) ∧
  (∀ (s : State) (a n : Nat) (rest : List HostStep), s.hostQueue = .readMem a n :: rest →
    2 ^ 32 < a + n → step s = .fault (.noSuchAddress a))

/-- R29 and R190: the reset event makes every register read 0 and leaves memory as it is, at every state; and what the
commands then do before anything is programmed. -/
def Obligations.ResetZeroesRegisters : Prop :=
  (∀ off : BitVec 8, readOffset off State.reset = 0) ∧
  (∀ (s : State) (rest : List HostStep), s.hostQueue = .reset :: rest →
    ∃ t, step s = .next t ∧ t.mem = s.mem ∧ t.hostQueue = rest ∧ t.replies = s.replies ∧ registersReset t ∧
      ∀ off : BitVec 8, readOffset off t = 0) ∧
  (∀ s : State, registersReset s →
    (∀ i n o, (i, n, o) ∈ extRows → exec i s = .next (trapped 1 0 s)) ∧ exec .unswap s = .next (trapped 1 0 s) ∧
    exec .swap s = .next (trapped 2 10 s) ∧ exec .convertW s = .next s ∧ exec .convertB s = .next s)

/-- A reset that falls inside a command (the model admits the spec's safe reading: log entry 7): the registers are reset.
Inside an accepted `SWAP` or `CONVERT` every byte of the command's write range takes a free value of its own
(`Config.freeByte`, numbered on from `freeCount`), and no other byte changes; inside any other word (a command that is
ignored, traps or writes no memory, or an illegal word) no byte changes at all. -/
def Obligations.ResetInsideCommandTouchesOnlyItsRange : Prop :=
  ∀ (s : State) (w : Word) (rest : List HostStep), s.hostQueue = .resetDuring w :: rest →
    ∃ t, step s = .next t ∧ registersReset t ∧ t.hostQueue = rest ∧ t.replies = s.replies ∧
      (swapsUnder w s → freeRange s t (outAddr s) 4) ∧
      (convertsUnder w s → freeRange s t s.dstBase.toNat (4 * s.width.toNat * s.height.toNat)) ∧
      (¬ swapsUnder w s → ¬ convertsUnder w s → t.mem = s.mem ∧ t.freeCount = s.freeCount)
end

