-- ==== Sys2Proof/Laws/Compose.lean ====
section
/-! SUPPORT. The composing function (40_binary_reader.md R80) one byte at a time. -/

namespace Sys2Proof.Machine

@[simp] theorem compose_nil (o : ByteOrder) : compose [] o = 0 := rfl

theorem compose_le_cons (b : Byte) (bs : List Byte) :
    compose (b :: bs) .le = b.toNat + 2 ^ 8 * compose bs .le := by
  simp only [compose, shift, List.length_cons, List.range_succ_eq_map, List.map_cons, List.map_map, List.sum_cons]
  rw [← List.sum_map_mul_left]
  simp only [List.getD_cons_zero, Nat.mul_zero, pow_zero, Nat.mul_one, Nat.add_left_cancel_iff]
  congr 1
  apply List.map_congr_left
  intro i _
  simp only [Function.comp_apply, List.getD_cons_succ]
  rw [show 8 * (i + 1) = 8 + 8 * i by omega, pow_add]
  ring

theorem compose_be_cons (b : Byte) (bs : List Byte) :
    compose (b :: bs) .be = b.toNat * 2 ^ (8 * bs.length) + compose bs .be := by
  simp only [compose, shift, List.length_cons, List.range_succ_eq_map, List.map_cons, List.map_map, List.sum_cons,
    List.getD_cons_zero]
  rw [show bs.length + 1 - 1 - 0 = bs.length by omega, Nat.add_left_cancel_iff]
  congr 1
  apply List.map_congr_left
  intro i _
  simp only [Function.comp_apply, List.getD_cons_succ]
  rw [show bs.length + 1 - 1 - (i + 1) = bs.length - 1 - i by omega]

/-- A composed value has exactly 8n bits (R80). -/
theorem compose_lt (bs : List Byte) (o : ByteOrder) : compose bs o < 2 ^ (8 * bs.length) := by
  induction bs with
  | nil => simp
  | cons b bs ih =>
    have hb := b.isLt
    rw [List.length_cons, show 8 * (bs.length + 1) = 8 * bs.length + 8 by omega, pow_add]
    cases o with
    | le => rw [compose_le_cons]; omega
    | be => rw [compose_be_cons]; nlinarith [ih, hb]

end Sys2Proof.Machine
end

