-- ==== Sys2Proof/Laws/State.lean ====
section
/-! SUPPORT. One lemma per field per state update: what the field holds afterwards. -/

namespace Sys2Proof.Machine

@[simp] theorem State.setStatus_err (e : BitVec 2) (c : BitVec 4) (s : State) : (s.setStatus e c).err = e := rfl
@[simp] theorem State.setStatus_cause (e : BitVec 2) (c : BitVec 4) (s : State) : (s.setStatus e c).cause = c := rfl
@[simp] theorem State.setStatus_curBase (e : BitVec 2) (c : BitVec 4) (s : State) : (s.setStatus e c).curBase = s.curBase := rfl
@[simp] theorem State.setStatus_curLen (e : BitVec 2) (c : BitVec 4) (s : State) : (s.setStatus e c).curLen = s.curLen := rfl
@[simp] theorem State.setStatus_curPos (e : BitVec 2) (c : BitVec 4) (s : State) : (s.setStatus e c).curPos = s.curPos := rfl
@[simp] theorem State.setStatus_operand (e : BitVec 2) (c : BitVec 4) (s : State) : (s.setStatus e c).operand = s.operand := rfl
@[simp] theorem State.setStatus_result (e : BitVec 2) (c : BitVec 4) (s : State) : (s.setStatus e c).result = s.result := rfl
@[simp] theorem State.setStatus_acc (e : BitVec 2) (c : BitVec 4) (s : State) : (s.setStatus e c).acc = s.acc := rfl
@[simp] theorem State.setStatus_pixel (e : BitVec 2) (c : BitVec 4) (s : State) : (s.setStatus e c).pixel = s.pixel := rfl
@[simp] theorem State.setStatus_alpha (e : BitVec 2) (c : BitVec 4) (s : State) : (s.setStatus e c).alpha = s.alpha := rfl
@[simp] theorem State.setStatus_outBase (e : BitVec 2) (c : BitVec 4) (s : State) : (s.setStatus e c).outBase = s.outBase := rfl
@[simp] theorem State.setStatus_outCap (e : BitVec 2) (c : BitVec 4) (s : State) : (s.setStatus e c).outCap = s.outCap := rfl
@[simp] theorem State.setStatus_outPos (e : BitVec 2) (c : BitVec 4) (s : State) : (s.setStatus e c).outPos = s.outPos := rfl
@[simp] theorem State.setStatus_yBase (e : BitVec 2) (c : BitVec 4) (s : State) : (s.setStatus e c).yBase = s.yBase := rfl
@[simp] theorem State.setStatus_yLen (e : BitVec 2) (c : BitVec 4) (s : State) : (s.setStatus e c).yLen = s.yLen := rfl
@[simp] theorem State.setStatus_uBase (e : BitVec 2) (c : BitVec 4) (s : State) : (s.setStatus e c).uBase = s.uBase := rfl
@[simp] theorem State.setStatus_uLen (e : BitVec 2) (c : BitVec 4) (s : State) : (s.setStatus e c).uLen = s.uLen := rfl
@[simp] theorem State.setStatus_vBase (e : BitVec 2) (c : BitVec 4) (s : State) : (s.setStatus e c).vBase = s.vBase := rfl
@[simp] theorem State.setStatus_vLen (e : BitVec 2) (c : BitVec 4) (s : State) : (s.setStatus e c).vLen = s.vLen := rfl
@[simp] theorem State.setStatus_width (e : BitVec 2) (c : BitVec 4) (s : State) : (s.setStatus e c).width = s.width := rfl
@[simp] theorem State.setStatus_height (e : BitVec 2) (c : BitVec 4) (s : State) : (s.setStatus e c).height = s.height := rfl
@[simp] theorem State.setStatus_yStride (e : BitVec 2) (c : BitVec 4) (s : State) : (s.setStatus e c).yStride = s.yStride := rfl
@[simp] theorem State.setStatus_uvStride (e : BitVec 2) (c : BitVec 4) (s : State) : (s.setStatus e c).uvStride = s.uvStride := rfl
@[simp] theorem State.setStatus_dstBase (e : BitVec 2) (c : BitVec 4) (s : State) : (s.setStatus e c).dstBase = s.dstBase := rfl
@[simp] theorem State.setStatus_dstCap (e : BitVec 2) (c : BitVec 4) (s : State) : (s.setStatus e c).dstCap = s.dstCap := rfl
@[simp] theorem State.setStatus_dstLen (e : BitVec 2) (c : BitVec 4) (s : State) : (s.setStatus e c).dstLen = s.dstLen := rfl
@[simp] theorem State.setStatus_mem (e : BitVec 2) (c : BitVec 4) (s : State) : (s.setStatus e c).mem = s.mem := rfl
@[simp] theorem State.setStatus_hostQueue (e : BitVec 2) (c : BitVec 4) (s : State) : (s.setStatus e c).hostQueue = s.hostQueue := rfl
@[simp] theorem State.setStatus_replies (e : BitVec 2) (c : BitVec 4) (s : State) : (s.setStatus e c).replies = s.replies := rfl
@[simp] theorem State.setStatus_freeCount (e : BitVec 2) (c : BitVec 4) (s : State) : (s.setStatus e c).freeCount = s.freeCount := rfl

@[simp] theorem State.setCurPos_err (v : Word) (s : State) : (s.setCurPos v).err = s.err := rfl
@[simp] theorem State.setCurPos_cause (v : Word) (s : State) : (s.setCurPos v).cause = s.cause := rfl
@[simp] theorem State.setCurPos_curBase (v : Word) (s : State) : (s.setCurPos v).curBase = s.curBase := rfl
@[simp] theorem State.setCurPos_curLen (v : Word) (s : State) : (s.setCurPos v).curLen = s.curLen := rfl
@[simp] theorem State.setCurPos_curPos (v : Word) (s : State) : (s.setCurPos v).curPos = v := rfl
@[simp] theorem State.setCurPos_operand (v : Word) (s : State) : (s.setCurPos v).operand = s.operand := rfl
@[simp] theorem State.setCurPos_result (v : Word) (s : State) : (s.setCurPos v).result = s.result := rfl
@[simp] theorem State.setCurPos_acc (v : Word) (s : State) : (s.setCurPos v).acc = s.acc := rfl
@[simp] theorem State.setCurPos_pixel (v : Word) (s : State) : (s.setCurPos v).pixel = s.pixel := rfl
@[simp] theorem State.setCurPos_alpha (v : Word) (s : State) : (s.setCurPos v).alpha = s.alpha := rfl
@[simp] theorem State.setCurPos_outBase (v : Word) (s : State) : (s.setCurPos v).outBase = s.outBase := rfl
@[simp] theorem State.setCurPos_outCap (v : Word) (s : State) : (s.setCurPos v).outCap = s.outCap := rfl
@[simp] theorem State.setCurPos_outPos (v : Word) (s : State) : (s.setCurPos v).outPos = s.outPos := rfl
@[simp] theorem State.setCurPos_yBase (v : Word) (s : State) : (s.setCurPos v).yBase = s.yBase := rfl
@[simp] theorem State.setCurPos_yLen (v : Word) (s : State) : (s.setCurPos v).yLen = s.yLen := rfl
@[simp] theorem State.setCurPos_uBase (v : Word) (s : State) : (s.setCurPos v).uBase = s.uBase := rfl
@[simp] theorem State.setCurPos_uLen (v : Word) (s : State) : (s.setCurPos v).uLen = s.uLen := rfl
@[simp] theorem State.setCurPos_vBase (v : Word) (s : State) : (s.setCurPos v).vBase = s.vBase := rfl
@[simp] theorem State.setCurPos_vLen (v : Word) (s : State) : (s.setCurPos v).vLen = s.vLen := rfl
@[simp] theorem State.setCurPos_width (v : Word) (s : State) : (s.setCurPos v).width = s.width := rfl
@[simp] theorem State.setCurPos_height (v : Word) (s : State) : (s.setCurPos v).height = s.height := rfl
@[simp] theorem State.setCurPos_yStride (v : Word) (s : State) : (s.setCurPos v).yStride = s.yStride := rfl
@[simp] theorem State.setCurPos_uvStride (v : Word) (s : State) : (s.setCurPos v).uvStride = s.uvStride := rfl
@[simp] theorem State.setCurPos_dstBase (v : Word) (s : State) : (s.setCurPos v).dstBase = s.dstBase := rfl
@[simp] theorem State.setCurPos_dstCap (v : Word) (s : State) : (s.setCurPos v).dstCap = s.dstCap := rfl
@[simp] theorem State.setCurPos_dstLen (v : Word) (s : State) : (s.setCurPos v).dstLen = s.dstLen := rfl
@[simp] theorem State.setCurPos_mem (v : Word) (s : State) : (s.setCurPos v).mem = s.mem := rfl
@[simp] theorem State.setCurPos_hostQueue (v : Word) (s : State) : (s.setCurPos v).hostQueue = s.hostQueue := rfl
@[simp] theorem State.setCurPos_replies (v : Word) (s : State) : (s.setCurPos v).replies = s.replies := rfl
@[simp] theorem State.setCurPos_freeCount (v : Word) (s : State) : (s.setCurPos v).freeCount = s.freeCount := rfl

@[simp] theorem State.setResult_err (v : DWord) (s : State) : (s.setResult v).err = s.err := rfl
@[simp] theorem State.setResult_cause (v : DWord) (s : State) : (s.setResult v).cause = s.cause := rfl
@[simp] theorem State.setResult_curBase (v : DWord) (s : State) : (s.setResult v).curBase = s.curBase := rfl
@[simp] theorem State.setResult_curLen (v : DWord) (s : State) : (s.setResult v).curLen = s.curLen := rfl
@[simp] theorem State.setResult_curPos (v : DWord) (s : State) : (s.setResult v).curPos = s.curPos := rfl
@[simp] theorem State.setResult_operand (v : DWord) (s : State) : (s.setResult v).operand = s.operand := rfl
@[simp] theorem State.setResult_result (v : DWord) (s : State) : (s.setResult v).result = v := rfl
@[simp] theorem State.setResult_acc (v : DWord) (s : State) : (s.setResult v).acc = s.acc := rfl
@[simp] theorem State.setResult_pixel (v : DWord) (s : State) : (s.setResult v).pixel = s.pixel := rfl
@[simp] theorem State.setResult_alpha (v : DWord) (s : State) : (s.setResult v).alpha = s.alpha := rfl
@[simp] theorem State.setResult_outBase (v : DWord) (s : State) : (s.setResult v).outBase = s.outBase := rfl
@[simp] theorem State.setResult_outCap (v : DWord) (s : State) : (s.setResult v).outCap = s.outCap := rfl
@[simp] theorem State.setResult_outPos (v : DWord) (s : State) : (s.setResult v).outPos = s.outPos := rfl
@[simp] theorem State.setResult_yBase (v : DWord) (s : State) : (s.setResult v).yBase = s.yBase := rfl
@[simp] theorem State.setResult_yLen (v : DWord) (s : State) : (s.setResult v).yLen = s.yLen := rfl
@[simp] theorem State.setResult_uBase (v : DWord) (s : State) : (s.setResult v).uBase = s.uBase := rfl
@[simp] theorem State.setResult_uLen (v : DWord) (s : State) : (s.setResult v).uLen = s.uLen := rfl
@[simp] theorem State.setResult_vBase (v : DWord) (s : State) : (s.setResult v).vBase = s.vBase := rfl
@[simp] theorem State.setResult_vLen (v : DWord) (s : State) : (s.setResult v).vLen = s.vLen := rfl
@[simp] theorem State.setResult_width (v : DWord) (s : State) : (s.setResult v).width = s.width := rfl
@[simp] theorem State.setResult_height (v : DWord) (s : State) : (s.setResult v).height = s.height := rfl
@[simp] theorem State.setResult_yStride (v : DWord) (s : State) : (s.setResult v).yStride = s.yStride := rfl
@[simp] theorem State.setResult_uvStride (v : DWord) (s : State) : (s.setResult v).uvStride = s.uvStride := rfl
@[simp] theorem State.setResult_dstBase (v : DWord) (s : State) : (s.setResult v).dstBase = s.dstBase := rfl
@[simp] theorem State.setResult_dstCap (v : DWord) (s : State) : (s.setResult v).dstCap = s.dstCap := rfl
@[simp] theorem State.setResult_dstLen (v : DWord) (s : State) : (s.setResult v).dstLen = s.dstLen := rfl
@[simp] theorem State.setResult_mem (v : DWord) (s : State) : (s.setResult v).mem = s.mem := rfl
@[simp] theorem State.setResult_hostQueue (v : DWord) (s : State) : (s.setResult v).hostQueue = s.hostQueue := rfl
@[simp] theorem State.setResult_replies (v : DWord) (s : State) : (s.setResult v).replies = s.replies := rfl
@[simp] theorem State.setResult_freeCount (v : DWord) (s : State) : (s.setResult v).freeCount = s.freeCount := rfl

@[simp] theorem State.setAcc_err (v : DWord) (s : State) : (s.setAcc v).err = s.err := rfl
@[simp] theorem State.setAcc_cause (v : DWord) (s : State) : (s.setAcc v).cause = s.cause := rfl
@[simp] theorem State.setAcc_curBase (v : DWord) (s : State) : (s.setAcc v).curBase = s.curBase := rfl
@[simp] theorem State.setAcc_curLen (v : DWord) (s : State) : (s.setAcc v).curLen = s.curLen := rfl
@[simp] theorem State.setAcc_curPos (v : DWord) (s : State) : (s.setAcc v).curPos = s.curPos := rfl
@[simp] theorem State.setAcc_operand (v : DWord) (s : State) : (s.setAcc v).operand = s.operand := rfl
@[simp] theorem State.setAcc_result (v : DWord) (s : State) : (s.setAcc v).result = s.result := rfl
@[simp] theorem State.setAcc_acc (v : DWord) (s : State) : (s.setAcc v).acc = v := rfl
@[simp] theorem State.setAcc_pixel (v : DWord) (s : State) : (s.setAcc v).pixel = s.pixel := rfl
@[simp] theorem State.setAcc_alpha (v : DWord) (s : State) : (s.setAcc v).alpha = s.alpha := rfl
@[simp] theorem State.setAcc_outBase (v : DWord) (s : State) : (s.setAcc v).outBase = s.outBase := rfl
@[simp] theorem State.setAcc_outCap (v : DWord) (s : State) : (s.setAcc v).outCap = s.outCap := rfl
@[simp] theorem State.setAcc_outPos (v : DWord) (s : State) : (s.setAcc v).outPos = s.outPos := rfl
@[simp] theorem State.setAcc_yBase (v : DWord) (s : State) : (s.setAcc v).yBase = s.yBase := rfl
@[simp] theorem State.setAcc_yLen (v : DWord) (s : State) : (s.setAcc v).yLen = s.yLen := rfl
@[simp] theorem State.setAcc_uBase (v : DWord) (s : State) : (s.setAcc v).uBase = s.uBase := rfl
@[simp] theorem State.setAcc_uLen (v : DWord) (s : State) : (s.setAcc v).uLen = s.uLen := rfl
@[simp] theorem State.setAcc_vBase (v : DWord) (s : State) : (s.setAcc v).vBase = s.vBase := rfl
@[simp] theorem State.setAcc_vLen (v : DWord) (s : State) : (s.setAcc v).vLen = s.vLen := rfl
@[simp] theorem State.setAcc_width (v : DWord) (s : State) : (s.setAcc v).width = s.width := rfl
@[simp] theorem State.setAcc_height (v : DWord) (s : State) : (s.setAcc v).height = s.height := rfl
@[simp] theorem State.setAcc_yStride (v : DWord) (s : State) : (s.setAcc v).yStride = s.yStride := rfl
@[simp] theorem State.setAcc_uvStride (v : DWord) (s : State) : (s.setAcc v).uvStride = s.uvStride := rfl
@[simp] theorem State.setAcc_dstBase (v : DWord) (s : State) : (s.setAcc v).dstBase = s.dstBase := rfl
@[simp] theorem State.setAcc_dstCap (v : DWord) (s : State) : (s.setAcc v).dstCap = s.dstCap := rfl
@[simp] theorem State.setAcc_dstLen (v : DWord) (s : State) : (s.setAcc v).dstLen = s.dstLen := rfl
@[simp] theorem State.setAcc_mem (v : DWord) (s : State) : (s.setAcc v).mem = s.mem := rfl
@[simp] theorem State.setAcc_hostQueue (v : DWord) (s : State) : (s.setAcc v).hostQueue = s.hostQueue := rfl
@[simp] theorem State.setAcc_replies (v : DWord) (s : State) : (s.setAcc v).replies = s.replies := rfl
@[simp] theorem State.setAcc_freeCount (v : DWord) (s : State) : (s.setAcc v).freeCount = s.freeCount := rfl

@[simp] theorem State.setPixel_err (v : Word) (s : State) : (s.setPixel v).err = s.err := rfl
@[simp] theorem State.setPixel_cause (v : Word) (s : State) : (s.setPixel v).cause = s.cause := rfl
@[simp] theorem State.setPixel_curBase (v : Word) (s : State) : (s.setPixel v).curBase = s.curBase := rfl
@[simp] theorem State.setPixel_curLen (v : Word) (s : State) : (s.setPixel v).curLen = s.curLen := rfl
@[simp] theorem State.setPixel_curPos (v : Word) (s : State) : (s.setPixel v).curPos = s.curPos := rfl
@[simp] theorem State.setPixel_operand (v : Word) (s : State) : (s.setPixel v).operand = s.operand := rfl
@[simp] theorem State.setPixel_result (v : Word) (s : State) : (s.setPixel v).result = s.result := rfl
@[simp] theorem State.setPixel_acc (v : Word) (s : State) : (s.setPixel v).acc = s.acc := rfl
@[simp] theorem State.setPixel_pixel (v : Word) (s : State) : (s.setPixel v).pixel = v := rfl
@[simp] theorem State.setPixel_alpha (v : Word) (s : State) : (s.setPixel v).alpha = s.alpha := rfl
@[simp] theorem State.setPixel_outBase (v : Word) (s : State) : (s.setPixel v).outBase = s.outBase := rfl
@[simp] theorem State.setPixel_outCap (v : Word) (s : State) : (s.setPixel v).outCap = s.outCap := rfl
@[simp] theorem State.setPixel_outPos (v : Word) (s : State) : (s.setPixel v).outPos = s.outPos := rfl
@[simp] theorem State.setPixel_yBase (v : Word) (s : State) : (s.setPixel v).yBase = s.yBase := rfl
@[simp] theorem State.setPixel_yLen (v : Word) (s : State) : (s.setPixel v).yLen = s.yLen := rfl
@[simp] theorem State.setPixel_uBase (v : Word) (s : State) : (s.setPixel v).uBase = s.uBase := rfl
@[simp] theorem State.setPixel_uLen (v : Word) (s : State) : (s.setPixel v).uLen = s.uLen := rfl
@[simp] theorem State.setPixel_vBase (v : Word) (s : State) : (s.setPixel v).vBase = s.vBase := rfl
@[simp] theorem State.setPixel_vLen (v : Word) (s : State) : (s.setPixel v).vLen = s.vLen := rfl
@[simp] theorem State.setPixel_width (v : Word) (s : State) : (s.setPixel v).width = s.width := rfl
@[simp] theorem State.setPixel_height (v : Word) (s : State) : (s.setPixel v).height = s.height := rfl
@[simp] theorem State.setPixel_yStride (v : Word) (s : State) : (s.setPixel v).yStride = s.yStride := rfl
@[simp] theorem State.setPixel_uvStride (v : Word) (s : State) : (s.setPixel v).uvStride = s.uvStride := rfl
@[simp] theorem State.setPixel_dstBase (v : Word) (s : State) : (s.setPixel v).dstBase = s.dstBase := rfl
@[simp] theorem State.setPixel_dstCap (v : Word) (s : State) : (s.setPixel v).dstCap = s.dstCap := rfl
@[simp] theorem State.setPixel_dstLen (v : Word) (s : State) : (s.setPixel v).dstLen = s.dstLen := rfl
@[simp] theorem State.setPixel_mem (v : Word) (s : State) : (s.setPixel v).mem = s.mem := rfl
@[simp] theorem State.setPixel_hostQueue (v : Word) (s : State) : (s.setPixel v).hostQueue = s.hostQueue := rfl
@[simp] theorem State.setPixel_replies (v : Word) (s : State) : (s.setPixel v).replies = s.replies := rfl
@[simp] theorem State.setPixel_freeCount (v : Word) (s : State) : (s.setPixel v).freeCount = s.freeCount := rfl

@[simp] theorem State.setOutPos_err (v : Word) (s : State) : (s.setOutPos v).err = s.err := rfl
@[simp] theorem State.setOutPos_cause (v : Word) (s : State) : (s.setOutPos v).cause = s.cause := rfl
@[simp] theorem State.setOutPos_curBase (v : Word) (s : State) : (s.setOutPos v).curBase = s.curBase := rfl
@[simp] theorem State.setOutPos_curLen (v : Word) (s : State) : (s.setOutPos v).curLen = s.curLen := rfl
@[simp] theorem State.setOutPos_curPos (v : Word) (s : State) : (s.setOutPos v).curPos = s.curPos := rfl
@[simp] theorem State.setOutPos_operand (v : Word) (s : State) : (s.setOutPos v).operand = s.operand := rfl
@[simp] theorem State.setOutPos_result (v : Word) (s : State) : (s.setOutPos v).result = s.result := rfl
@[simp] theorem State.setOutPos_acc (v : Word) (s : State) : (s.setOutPos v).acc = s.acc := rfl
@[simp] theorem State.setOutPos_pixel (v : Word) (s : State) : (s.setOutPos v).pixel = s.pixel := rfl
@[simp] theorem State.setOutPos_alpha (v : Word) (s : State) : (s.setOutPos v).alpha = s.alpha := rfl
@[simp] theorem State.setOutPos_outBase (v : Word) (s : State) : (s.setOutPos v).outBase = s.outBase := rfl
@[simp] theorem State.setOutPos_outCap (v : Word) (s : State) : (s.setOutPos v).outCap = s.outCap := rfl
@[simp] theorem State.setOutPos_outPos (v : Word) (s : State) : (s.setOutPos v).outPos = v := rfl
@[simp] theorem State.setOutPos_yBase (v : Word) (s : State) : (s.setOutPos v).yBase = s.yBase := rfl
@[simp] theorem State.setOutPos_yLen (v : Word) (s : State) : (s.setOutPos v).yLen = s.yLen := rfl
@[simp] theorem State.setOutPos_uBase (v : Word) (s : State) : (s.setOutPos v).uBase = s.uBase := rfl
@[simp] theorem State.setOutPos_uLen (v : Word) (s : State) : (s.setOutPos v).uLen = s.uLen := rfl
@[simp] theorem State.setOutPos_vBase (v : Word) (s : State) : (s.setOutPos v).vBase = s.vBase := rfl
@[simp] theorem State.setOutPos_vLen (v : Word) (s : State) : (s.setOutPos v).vLen = s.vLen := rfl
@[simp] theorem State.setOutPos_width (v : Word) (s : State) : (s.setOutPos v).width = s.width := rfl
@[simp] theorem State.setOutPos_height (v : Word) (s : State) : (s.setOutPos v).height = s.height := rfl
@[simp] theorem State.setOutPos_yStride (v : Word) (s : State) : (s.setOutPos v).yStride = s.yStride := rfl
@[simp] theorem State.setOutPos_uvStride (v : Word) (s : State) : (s.setOutPos v).uvStride = s.uvStride := rfl
@[simp] theorem State.setOutPos_dstBase (v : Word) (s : State) : (s.setOutPos v).dstBase = s.dstBase := rfl
@[simp] theorem State.setOutPos_dstCap (v : Word) (s : State) : (s.setOutPos v).dstCap = s.dstCap := rfl
@[simp] theorem State.setOutPos_dstLen (v : Word) (s : State) : (s.setOutPos v).dstLen = s.dstLen := rfl
@[simp] theorem State.setOutPos_mem (v : Word) (s : State) : (s.setOutPos v).mem = s.mem := rfl
@[simp] theorem State.setOutPos_hostQueue (v : Word) (s : State) : (s.setOutPos v).hostQueue = s.hostQueue := rfl
@[simp] theorem State.setOutPos_replies (v : Word) (s : State) : (s.setOutPos v).replies = s.replies := rfl
@[simp] theorem State.setOutPos_freeCount (v : Word) (s : State) : (s.setOutPos v).freeCount = s.freeCount := rfl

@[simp] theorem State.setDstLen_err (v : Word) (s : State) : (s.setDstLen v).err = s.err := rfl
@[simp] theorem State.setDstLen_cause (v : Word) (s : State) : (s.setDstLen v).cause = s.cause := rfl
@[simp] theorem State.setDstLen_curBase (v : Word) (s : State) : (s.setDstLen v).curBase = s.curBase := rfl
@[simp] theorem State.setDstLen_curLen (v : Word) (s : State) : (s.setDstLen v).curLen = s.curLen := rfl
@[simp] theorem State.setDstLen_curPos (v : Word) (s : State) : (s.setDstLen v).curPos = s.curPos := rfl
@[simp] theorem State.setDstLen_operand (v : Word) (s : State) : (s.setDstLen v).operand = s.operand := rfl
@[simp] theorem State.setDstLen_result (v : Word) (s : State) : (s.setDstLen v).result = s.result := rfl
@[simp] theorem State.setDstLen_acc (v : Word) (s : State) : (s.setDstLen v).acc = s.acc := rfl
@[simp] theorem State.setDstLen_pixel (v : Word) (s : State) : (s.setDstLen v).pixel = s.pixel := rfl
@[simp] theorem State.setDstLen_alpha (v : Word) (s : State) : (s.setDstLen v).alpha = s.alpha := rfl
@[simp] theorem State.setDstLen_outBase (v : Word) (s : State) : (s.setDstLen v).outBase = s.outBase := rfl
@[simp] theorem State.setDstLen_outCap (v : Word) (s : State) : (s.setDstLen v).outCap = s.outCap := rfl
@[simp] theorem State.setDstLen_outPos (v : Word) (s : State) : (s.setDstLen v).outPos = s.outPos := rfl
@[simp] theorem State.setDstLen_yBase (v : Word) (s : State) : (s.setDstLen v).yBase = s.yBase := rfl
@[simp] theorem State.setDstLen_yLen (v : Word) (s : State) : (s.setDstLen v).yLen = s.yLen := rfl
@[simp] theorem State.setDstLen_uBase (v : Word) (s : State) : (s.setDstLen v).uBase = s.uBase := rfl
@[simp] theorem State.setDstLen_uLen (v : Word) (s : State) : (s.setDstLen v).uLen = s.uLen := rfl
@[simp] theorem State.setDstLen_vBase (v : Word) (s : State) : (s.setDstLen v).vBase = s.vBase := rfl
@[simp] theorem State.setDstLen_vLen (v : Word) (s : State) : (s.setDstLen v).vLen = s.vLen := rfl
@[simp] theorem State.setDstLen_width (v : Word) (s : State) : (s.setDstLen v).width = s.width := rfl
@[simp] theorem State.setDstLen_height (v : Word) (s : State) : (s.setDstLen v).height = s.height := rfl
@[simp] theorem State.setDstLen_yStride (v : Word) (s : State) : (s.setDstLen v).yStride = s.yStride := rfl
@[simp] theorem State.setDstLen_uvStride (v : Word) (s : State) : (s.setDstLen v).uvStride = s.uvStride := rfl
@[simp] theorem State.setDstLen_dstBase (v : Word) (s : State) : (s.setDstLen v).dstBase = s.dstBase := rfl
@[simp] theorem State.setDstLen_dstCap (v : Word) (s : State) : (s.setDstLen v).dstCap = s.dstCap := rfl
@[simp] theorem State.setDstLen_dstLen (v : Word) (s : State) : (s.setDstLen v).dstLen = v := rfl
@[simp] theorem State.setDstLen_mem (v : Word) (s : State) : (s.setDstLen v).mem = s.mem := rfl
@[simp] theorem State.setDstLen_hostQueue (v : Word) (s : State) : (s.setDstLen v).hostQueue = s.hostQueue := rfl
@[simp] theorem State.setDstLen_replies (v : Word) (s : State) : (s.setDstLen v).replies = s.replies := rfl
@[simp] theorem State.setDstLen_freeCount (v : Word) (s : State) : (s.setDstLen v).freeCount = s.freeCount := rfl

@[simp] theorem State.setMem_err (m : Memory) (s : State) : (s.setMem m).err = s.err := rfl
@[simp] theorem State.setMem_cause (m : Memory) (s : State) : (s.setMem m).cause = s.cause := rfl
@[simp] theorem State.setMem_curBase (m : Memory) (s : State) : (s.setMem m).curBase = s.curBase := rfl
@[simp] theorem State.setMem_curLen (m : Memory) (s : State) : (s.setMem m).curLen = s.curLen := rfl
@[simp] theorem State.setMem_curPos (m : Memory) (s : State) : (s.setMem m).curPos = s.curPos := rfl
@[simp] theorem State.setMem_operand (m : Memory) (s : State) : (s.setMem m).operand = s.operand := rfl
@[simp] theorem State.setMem_result (m : Memory) (s : State) : (s.setMem m).result = s.result := rfl
@[simp] theorem State.setMem_acc (m : Memory) (s : State) : (s.setMem m).acc = s.acc := rfl
@[simp] theorem State.setMem_pixel (m : Memory) (s : State) : (s.setMem m).pixel = s.pixel := rfl
@[simp] theorem State.setMem_alpha (m : Memory) (s : State) : (s.setMem m).alpha = s.alpha := rfl
@[simp] theorem State.setMem_outBase (m : Memory) (s : State) : (s.setMem m).outBase = s.outBase := rfl
@[simp] theorem State.setMem_outCap (m : Memory) (s : State) : (s.setMem m).outCap = s.outCap := rfl
@[simp] theorem State.setMem_outPos (m : Memory) (s : State) : (s.setMem m).outPos = s.outPos := rfl
@[simp] theorem State.setMem_yBase (m : Memory) (s : State) : (s.setMem m).yBase = s.yBase := rfl
@[simp] theorem State.setMem_yLen (m : Memory) (s : State) : (s.setMem m).yLen = s.yLen := rfl
@[simp] theorem State.setMem_uBase (m : Memory) (s : State) : (s.setMem m).uBase = s.uBase := rfl
@[simp] theorem State.setMem_uLen (m : Memory) (s : State) : (s.setMem m).uLen = s.uLen := rfl
@[simp] theorem State.setMem_vBase (m : Memory) (s : State) : (s.setMem m).vBase = s.vBase := rfl
@[simp] theorem State.setMem_vLen (m : Memory) (s : State) : (s.setMem m).vLen = s.vLen := rfl
@[simp] theorem State.setMem_width (m : Memory) (s : State) : (s.setMem m).width = s.width := rfl
@[simp] theorem State.setMem_height (m : Memory) (s : State) : (s.setMem m).height = s.height := rfl
@[simp] theorem State.setMem_yStride (m : Memory) (s : State) : (s.setMem m).yStride = s.yStride := rfl
@[simp] theorem State.setMem_uvStride (m : Memory) (s : State) : (s.setMem m).uvStride = s.uvStride := rfl
@[simp] theorem State.setMem_dstBase (m : Memory) (s : State) : (s.setMem m).dstBase = s.dstBase := rfl
@[simp] theorem State.setMem_dstCap (m : Memory) (s : State) : (s.setMem m).dstCap = s.dstCap := rfl
@[simp] theorem State.setMem_dstLen (m : Memory) (s : State) : (s.setMem m).dstLen = s.dstLen := rfl
@[simp] theorem State.setMem_mem (m : Memory) (s : State) : (s.setMem m).mem = m := rfl
@[simp] theorem State.setMem_hostQueue (m : Memory) (s : State) : (s.setMem m).hostQueue = s.hostQueue := rfl
@[simp] theorem State.setMem_replies (m : Memory) (s : State) : (s.setMem m).replies = s.replies := rfl
@[simp] theorem State.setMem_freeCount (m : Memory) (s : State) : (s.setMem m).freeCount = s.freeCount := rfl

@[simp] theorem State.setQueue_err (q : List HostStep) (s : State) : (s.setQueue q).err = s.err := rfl
@[simp] theorem State.setQueue_cause (q : List HostStep) (s : State) : (s.setQueue q).cause = s.cause := rfl
@[simp] theorem State.setQueue_curBase (q : List HostStep) (s : State) : (s.setQueue q).curBase = s.curBase := rfl
@[simp] theorem State.setQueue_curLen (q : List HostStep) (s : State) : (s.setQueue q).curLen = s.curLen := rfl
@[simp] theorem State.setQueue_curPos (q : List HostStep) (s : State) : (s.setQueue q).curPos = s.curPos := rfl
@[simp] theorem State.setQueue_operand (q : List HostStep) (s : State) : (s.setQueue q).operand = s.operand := rfl
@[simp] theorem State.setQueue_result (q : List HostStep) (s : State) : (s.setQueue q).result = s.result := rfl
@[simp] theorem State.setQueue_acc (q : List HostStep) (s : State) : (s.setQueue q).acc = s.acc := rfl
@[simp] theorem State.setQueue_pixel (q : List HostStep) (s : State) : (s.setQueue q).pixel = s.pixel := rfl
@[simp] theorem State.setQueue_alpha (q : List HostStep) (s : State) : (s.setQueue q).alpha = s.alpha := rfl
@[simp] theorem State.setQueue_outBase (q : List HostStep) (s : State) : (s.setQueue q).outBase = s.outBase := rfl
@[simp] theorem State.setQueue_outCap (q : List HostStep) (s : State) : (s.setQueue q).outCap = s.outCap := rfl
@[simp] theorem State.setQueue_outPos (q : List HostStep) (s : State) : (s.setQueue q).outPos = s.outPos := rfl
@[simp] theorem State.setQueue_yBase (q : List HostStep) (s : State) : (s.setQueue q).yBase = s.yBase := rfl
@[simp] theorem State.setQueue_yLen (q : List HostStep) (s : State) : (s.setQueue q).yLen = s.yLen := rfl
@[simp] theorem State.setQueue_uBase (q : List HostStep) (s : State) : (s.setQueue q).uBase = s.uBase := rfl
@[simp] theorem State.setQueue_uLen (q : List HostStep) (s : State) : (s.setQueue q).uLen = s.uLen := rfl
@[simp] theorem State.setQueue_vBase (q : List HostStep) (s : State) : (s.setQueue q).vBase = s.vBase := rfl
@[simp] theorem State.setQueue_vLen (q : List HostStep) (s : State) : (s.setQueue q).vLen = s.vLen := rfl
@[simp] theorem State.setQueue_width (q : List HostStep) (s : State) : (s.setQueue q).width = s.width := rfl
@[simp] theorem State.setQueue_height (q : List HostStep) (s : State) : (s.setQueue q).height = s.height := rfl
@[simp] theorem State.setQueue_yStride (q : List HostStep) (s : State) : (s.setQueue q).yStride = s.yStride := rfl
@[simp] theorem State.setQueue_uvStride (q : List HostStep) (s : State) : (s.setQueue q).uvStride = s.uvStride := rfl
@[simp] theorem State.setQueue_dstBase (q : List HostStep) (s : State) : (s.setQueue q).dstBase = s.dstBase := rfl
@[simp] theorem State.setQueue_dstCap (q : List HostStep) (s : State) : (s.setQueue q).dstCap = s.dstCap := rfl
@[simp] theorem State.setQueue_dstLen (q : List HostStep) (s : State) : (s.setQueue q).dstLen = s.dstLen := rfl
@[simp] theorem State.setQueue_mem (q : List HostStep) (s : State) : (s.setQueue q).mem = s.mem := rfl
@[simp] theorem State.setQueue_hostQueue (q : List HostStep) (s : State) : (s.setQueue q).hostQueue = q := rfl
@[simp] theorem State.setQueue_replies (q : List HostStep) (s : State) : (s.setQueue q).replies = s.replies := rfl
@[simp] theorem State.setQueue_freeCount (q : List HostStep) (s : State) : (s.setQueue q).freeCount = s.freeCount := rfl

@[simp] theorem State.addReply_err (r : HostReply) (s : State) : (s.addReply r).err = s.err := rfl
@[simp] theorem State.addReply_cause (r : HostReply) (s : State) : (s.addReply r).cause = s.cause := rfl
@[simp] theorem State.addReply_curBase (r : HostReply) (s : State) : (s.addReply r).curBase = s.curBase := rfl
@[simp] theorem State.addReply_curLen (r : HostReply) (s : State) : (s.addReply r).curLen = s.curLen := rfl
@[simp] theorem State.addReply_curPos (r : HostReply) (s : State) : (s.addReply r).curPos = s.curPos := rfl
@[simp] theorem State.addReply_operand (r : HostReply) (s : State) : (s.addReply r).operand = s.operand := rfl
@[simp] theorem State.addReply_result (r : HostReply) (s : State) : (s.addReply r).result = s.result := rfl
@[simp] theorem State.addReply_acc (r : HostReply) (s : State) : (s.addReply r).acc = s.acc := rfl
@[simp] theorem State.addReply_pixel (r : HostReply) (s : State) : (s.addReply r).pixel = s.pixel := rfl
@[simp] theorem State.addReply_alpha (r : HostReply) (s : State) : (s.addReply r).alpha = s.alpha := rfl
@[simp] theorem State.addReply_outBase (r : HostReply) (s : State) : (s.addReply r).outBase = s.outBase := rfl
@[simp] theorem State.addReply_outCap (r : HostReply) (s : State) : (s.addReply r).outCap = s.outCap := rfl
@[simp] theorem State.addReply_outPos (r : HostReply) (s : State) : (s.addReply r).outPos = s.outPos := rfl
@[simp] theorem State.addReply_yBase (r : HostReply) (s : State) : (s.addReply r).yBase = s.yBase := rfl
@[simp] theorem State.addReply_yLen (r : HostReply) (s : State) : (s.addReply r).yLen = s.yLen := rfl
@[simp] theorem State.addReply_uBase (r : HostReply) (s : State) : (s.addReply r).uBase = s.uBase := rfl
@[simp] theorem State.addReply_uLen (r : HostReply) (s : State) : (s.addReply r).uLen = s.uLen := rfl
@[simp] theorem State.addReply_vBase (r : HostReply) (s : State) : (s.addReply r).vBase = s.vBase := rfl
@[simp] theorem State.addReply_vLen (r : HostReply) (s : State) : (s.addReply r).vLen = s.vLen := rfl
@[simp] theorem State.addReply_width (r : HostReply) (s : State) : (s.addReply r).width = s.width := rfl
@[simp] theorem State.addReply_height (r : HostReply) (s : State) : (s.addReply r).height = s.height := rfl
@[simp] theorem State.addReply_yStride (r : HostReply) (s : State) : (s.addReply r).yStride = s.yStride := rfl
@[simp] theorem State.addReply_uvStride (r : HostReply) (s : State) : (s.addReply r).uvStride = s.uvStride := rfl
@[simp] theorem State.addReply_dstBase (r : HostReply) (s : State) : (s.addReply r).dstBase = s.dstBase := rfl
@[simp] theorem State.addReply_dstCap (r : HostReply) (s : State) : (s.addReply r).dstCap = s.dstCap := rfl
@[simp] theorem State.addReply_dstLen (r : HostReply) (s : State) : (s.addReply r).dstLen = s.dstLen := rfl
@[simp] theorem State.addReply_mem (r : HostReply) (s : State) : (s.addReply r).mem = s.mem := rfl
@[simp] theorem State.addReply_hostQueue (r : HostReply) (s : State) : (s.addReply r).hostQueue = s.hostQueue := rfl
@[simp] theorem State.addReply_replies (r : HostReply) (s : State) : (s.addReply r).replies = r :: s.replies := rfl
@[simp] theorem State.addReply_freeCount (r : HostReply) (s : State) : (s.addReply r).freeCount = s.freeCount := rfl

@[simp] theorem State.useFree_err (n : Nat) (s : State) : (s.useFree n).err = s.err := rfl
@[simp] theorem State.useFree_cause (n : Nat) (s : State) : (s.useFree n).cause = s.cause := rfl
@[simp] theorem State.useFree_curBase (n : Nat) (s : State) : (s.useFree n).curBase = s.curBase := rfl
@[simp] theorem State.useFree_curLen (n : Nat) (s : State) : (s.useFree n).curLen = s.curLen := rfl
@[simp] theorem State.useFree_curPos (n : Nat) (s : State) : (s.useFree n).curPos = s.curPos := rfl
@[simp] theorem State.useFree_operand (n : Nat) (s : State) : (s.useFree n).operand = s.operand := rfl
@[simp] theorem State.useFree_result (n : Nat) (s : State) : (s.useFree n).result = s.result := rfl
@[simp] theorem State.useFree_acc (n : Nat) (s : State) : (s.useFree n).acc = s.acc := rfl
@[simp] theorem State.useFree_pixel (n : Nat) (s : State) : (s.useFree n).pixel = s.pixel := rfl
@[simp] theorem State.useFree_alpha (n : Nat) (s : State) : (s.useFree n).alpha = s.alpha := rfl
@[simp] theorem State.useFree_outBase (n : Nat) (s : State) : (s.useFree n).outBase = s.outBase := rfl
@[simp] theorem State.useFree_outCap (n : Nat) (s : State) : (s.useFree n).outCap = s.outCap := rfl
@[simp] theorem State.useFree_outPos (n : Nat) (s : State) : (s.useFree n).outPos = s.outPos := rfl
@[simp] theorem State.useFree_yBase (n : Nat) (s : State) : (s.useFree n).yBase = s.yBase := rfl
@[simp] theorem State.useFree_yLen (n : Nat) (s : State) : (s.useFree n).yLen = s.yLen := rfl
@[simp] theorem State.useFree_uBase (n : Nat) (s : State) : (s.useFree n).uBase = s.uBase := rfl
@[simp] theorem State.useFree_uLen (n : Nat) (s : State) : (s.useFree n).uLen = s.uLen := rfl
@[simp] theorem State.useFree_vBase (n : Nat) (s : State) : (s.useFree n).vBase = s.vBase := rfl
@[simp] theorem State.useFree_vLen (n : Nat) (s : State) : (s.useFree n).vLen = s.vLen := rfl
@[simp] theorem State.useFree_width (n : Nat) (s : State) : (s.useFree n).width = s.width := rfl
@[simp] theorem State.useFree_height (n : Nat) (s : State) : (s.useFree n).height = s.height := rfl
@[simp] theorem State.useFree_yStride (n : Nat) (s : State) : (s.useFree n).yStride = s.yStride := rfl
@[simp] theorem State.useFree_uvStride (n : Nat) (s : State) : (s.useFree n).uvStride = s.uvStride := rfl
@[simp] theorem State.useFree_dstBase (n : Nat) (s : State) : (s.useFree n).dstBase = s.dstBase := rfl
@[simp] theorem State.useFree_dstCap (n : Nat) (s : State) : (s.useFree n).dstCap = s.dstCap := rfl
@[simp] theorem State.useFree_dstLen (n : Nat) (s : State) : (s.useFree n).dstLen = s.dstLen := rfl
@[simp] theorem State.useFree_mem (n : Nat) (s : State) : (s.useFree n).mem = s.mem := rfl
@[simp] theorem State.useFree_hostQueue (n : Nat) (s : State) : (s.useFree n).hostQueue = s.hostQueue := rfl
@[simp] theorem State.useFree_replies (n : Nat) (s : State) : (s.useFree n).replies = s.replies := rfl
@[simp] theorem State.useFree_freeCount (n : Nat) (s : State) : (s.useFree n).freeCount = s.freeCount + n := rfl

end Sys2Proof.Machine
end

