-- ==== Sys2Proof/Laws/Ops.lean ====
section
/-! SUPPORT. What each shared operation can do, said once: the provers cite these instead of unfolding the meanings. -/

namespace Sys2Proof.Machine

/-! ### Traps, the latch, the front end -/

theorem regionWraps_iff (base len : Word) : regionWraps base len = true ↔ 2 ^ 32 < base.toNat + len.toNat :=
  decide_eq_true_iff

theorem raise_eq (t : Trap) (s : State) : raise t s = { s with err := errCode t, cause := causeCode t } := rfl

theorem clearLatch_eq (s : State) : clearLatch s = { s with err := 0, cause := 0 } := rfl

theorem command_unlatched (op : State → State) (s : State) (h : s.err = 0) : command op s = .next (op s) := by
  simp [command, h]

theorem command_latched (op : State → State) (s : State) (h : s.err ≠ 0) : command op s = .next s := by
  have : ¬ s.err = 0#2 := h
  simp [command, this]

/-- All that a command's front end can do. -/
theorem command_next (op : State → State) (s t : State) (h : command op s = .next t) :
    (s.err = 0 ∧ t = op s) ∨ (s.err ≠ 0 ∧ t = s) := by
  by_cases he : s.err = 0
  · rw [command_unlatched op s he] at h
    exact .inl ⟨he, (Host.Outcome.next.inj h).symm⟩
  · rw [command_latched op s he] at h
    exact .inr ⟨he, (Host.Outcome.next.inj h).symm⟩

/-! ### The input cursor -/

/-- All that a cursor read can answer (R81): a wrapped region, too few bytes, or the bytes. -/
theorem cursorBytes_cases (n : Nat) (s : State) :
    (2 ^ 32 < s.curBase.toNat + s.curLen.toNat ∧ cursorBytes n s = .error (.contractViolation .regionWrap)) ∨
    (s.curBase.toNat + s.curLen.toNat ≤ 2 ^ 32 ∧ s.curLen.toNat < s.curPos.toNat + n ∧
      cursorBytes n s = .error .outOfData) ∨
    (s.curBase.toNat + s.curLen.toNat ≤ 2 ^ 32 ∧ s.curPos.toNat + n ≤ s.curLen.toNat ∧
      cursorBytes n s = .ok (Memory.readBytes s.mem (cursorAddr s) n)) := by
  unfold cursorBytes
  by_cases h : regionWraps s.curBase s.curLen = true
  · exact .inl ⟨(regionWraps_iff _ _).mp h, by simp [h]⟩
  · have hw : s.curBase.toNat + s.curLen.toNat ≤ 2 ^ 32 := by
      have := mt (regionWraps_iff s.curBase s.curLen).mpr h
      omega
    by_cases h2 : s.curLen.toNat < s.curPos.toNat + n
    · exact .inr (.inl ⟨hw, h2, by simp [h, h2]⟩)
    · exact .inr (.inr ⟨hw, by omega, by simp [h, h2]⟩)

/-- The advanced position does not wrap (R21). -/
theorem toNat_add_ofNat (p l : Word) (n : Nat) (h : p.toNat + n ≤ l.toNat) :
    (p + BitVec.ofNat 32 n).toNat = p.toNat + n := by
  have := l.isLt
  rw [BitVec.toNat_add, BitVec.toNat_ofNat, Nat.mod_eq_of_lt (a := n) (by omega), Nat.mod_eq_of_lt (by omega)]

/-- All that `EXT` past the latch can do (R81). -/
theorem extract_cases (n : Length) (o : ByteOrder) (s : State) :
    (2 ^ 32 < s.curBase.toNat + s.curLen.toNat ∧ extract n o s = raise (.contractViolation .regionWrap) s) ∨
    (s.curBase.toNat + s.curLen.toNat ≤ 2 ^ 32 ∧ s.curLen.toNat < s.curPos.toNat + n.bytes ∧
      extract n o s = raise .outOfData s) ∨
    (s.curBase.toNat + s.curLen.toNat ≤ 2 ^ 32 ∧ s.curPos.toNat + n.bytes ≤ s.curLen.toNat ∧
      extract n o s =
        { s with result := sext64 n.bytes (compose (Memory.readBytes s.mem (cursorAddr s) n.bytes) o)
                 curPos := s.curPos + BitVec.ofNat 32 n.bytes }) := by
  unfold extract
  rcases cursorBytes_cases n.bytes s with ⟨h, e⟩ | ⟨h, h', e⟩ | ⟨h, h', e⟩
  · exact .inl ⟨h, by rw [e]⟩
  · exact .inr (.inl ⟨h, h', by rw [e]⟩)
  · exact .inr (.inr ⟨h, h', by rw [e]; rfl⟩)

theorem composeOperand_eq (n : Length) (o : ByteOrder) (s : State) :
    composeOperand n o s = { s with result := sext64 n.bytes (compose (operandBytes n.bytes s) o) } := rfl

/-- All that `UNSWAP` past the latch can do (R112). -/
theorem unswapPixel_cases (s : State) :
    (2 ^ 32 < s.curBase.toNat + s.curLen.toNat ∧ unswapPixel s = raise (.contractViolation .regionWrap) s) ∨
    (s.curBase.toNat + s.curLen.toNat ≤ 2 ^ 32 ∧ s.curLen.toNat < s.curPos.toNat + 4 ∧
      unswapPixel s = raise .outOfData s) ∨
    (s.curBase.toNat + s.curLen.toNat ≤ 2 ^ 32 ∧ s.curPos.toNat + 4 ≤ s.curLen.toNat ∧
      unswapPixel s =
        { s with pixel := argb (Memory.read s.mem (cursorAddr s + 3)) (Memory.read s.mem (cursorAddr s + 2))
                            (Memory.read s.mem (cursorAddr s + 1)) (Memory.read s.mem (cursorAddr s))
                 curPos := s.curPos + BitVec.ofNat 32 4 }) := by
  unfold unswapPixel
  rcases cursorBytes_cases 4 s with ⟨h, e⟩ | ⟨h, h', e⟩ | ⟨h, h', e⟩
  · exact .inl ⟨h, by rw [e]⟩
  · exact .inr (.inl ⟨h, h', by rw [e]⟩)
  · exact .inr (.inr ⟨h, h', by rw [e]; rfl⟩)

/-- All that `SWAP` past the latch can do (R111). -/
theorem swapPixel_cases (s : State) :
    (2 ^ 32 < s.outBase.toNat + s.outCap.toNat ∧ swapPixel s = raise (.contractViolation .regionWrap) s) ∨
    (s.outBase.toNat + s.outCap.toNat ≤ 2 ^ 32 ∧ s.outCap.toNat < s.outPos.toNat + 4 ∧
      swapPixel s = raise (.contractViolation .outCap) s) ∨
    (s.outBase.toNat + s.outCap.toNat ≤ 2 ^ 32 ∧ s.outPos.toNat + 4 ≤ s.outCap.toNat ∧
      swapPixel s = { s with mem := Memory.writeBytes s.mem (outAddr s) (swapBytes s)
                             outPos := s.outPos + BitVec.ofNat 32 4 }) := by
  unfold swapPixel
  by_cases h : regionWraps s.outBase s.outCap = true
  · exact .inl ⟨(regionWraps_iff _ _).mp h, by simp [h]⟩
  · have hw : s.outBase.toNat + s.outCap.toNat ≤ 2 ^ 32 := by
      have := mt (regionWraps_iff s.outBase s.outCap).mpr h
      omega
    by_cases h2 : s.outCap.toNat < s.outPos.toNat + 4
    · exact .inr (.inl ⟨hw, h2, by simp [h, h2]⟩)
    · refine .inr (.inr ⟨hw, by omega, ?_⟩)
      simp only [h, h2, if_false, Bool.false_eq_true]
      rfl

/-- All that `CONVERT` past the latch can do (R122, R128, R129), by the answer of the checks. -/
theorem convert_cases (store : Frame → Nat → Nat → Memory → Memory) (s : State) :
    (∃ c, convertCheck s = .trap c ∧ convert store s = raise (.contractViolation c) s) ∨
    (convertCheck s = .empty ∧ convert store s = { s with dstLen := 0 }) ∨
    (∃ f, convertCheck s = .frame f ∧
      convert store s =
        { s with mem := convertFrame store f s.mem, dstLen := BitVec.ofNat 32 (4 * f.w * f.h) }) := by
  unfold convert
  cases h : convertCheck s with
  | trap c => exact .inl ⟨c, rfl, rfl⟩
  | empty => exact .inr (.inl ⟨rfl, rfl⟩)
  | frame f => exact .inr (.inr ⟨f, rfl, rfl⟩)

/-! ### The host's steps -/

@[simp] theorem resetEvent_mem (s : State) : (resetEvent s).mem = s.mem := rfl
@[simp] theorem resetEvent_hostQueue (s : State) : (resetEvent s).hostQueue = s.hostQueue := rfl
@[simp] theorem resetEvent_replies (s : State) : (resetEvent s).replies = s.replies := rfl
@[simp] theorem resetEvent_freeCount (s : State) : (resetEvent s).freeCount = s.freeCount := rfl

theorem step_idle (s : State) (h : s.hostQueue = []) : step s = .next s := by simp [step, takeHostStep, h]

theorem step_cons (s : State) (h : HostStep) (rest : List HostStep) (hq : s.hostQueue = h :: rest) :
    step s = hostStep h { s with hostQueue := rest } := by
  simp only [step, takeHostStep, hq]
  rfl

theorem step_command (s : State) (w : Word) (rest : List HostStep) (hq : s.hostQueue = .writeReg 0x00 w :: rest) :
    step s = commandWrite w { s with hostQueue := rest } := by
  rw [step_cons s _ rest hq]
  rfl

theorem commandWrite_legal (w : Word) (i : Instr) (s : State) (h : decode w = .ok i) : commandWrite w s = exec i s := by
  simp [commandWrite, h]

theorem commandWrite_illegal (w : Word) (s : State) (h : ∀ i, decode w ≠ .ok i) :
    commandWrite w s = command (raise (.contractViolation .illegalCmd)) s := by
  unfold commandWrite
  cases hd : decode w with
  | ok i => exact absurd hd (h i)
  | error e => rfl

/-- All that a host step can do when it answers a next state. -/
theorem hostStep_next (h : HostStep) (s t : State) (ht : hostStep h s = .next t) :
    (∃ w, h = .writeReg 0 w ∧ commandWrite w s = .next t) ∨
    (∃ off v, h = .writeReg off v ∧ off ≠ 0 ∧ off.toNat % 4 = 0 ∧ t = writeOffset off v s) ∨
    (∃ off, h = .readReg off ∧ off.toNat % 4 = 0 ∧ t = s.addReply (.word (readOffset off s))) ∨
    (∃ a bs, h = .writeMem a bs ∧ a + bs.length ≤ 2 ^ 32 ∧ t = s.setMem (Memory.writeBytes s.mem a bs)) ∨
    (∃ a n, h = .readMem a n ∧ a + n ≤ 2 ^ 32 ∧ t = s.addReply (.bytes (Memory.readBytes s.mem a n))) ∨
    (h = .reset ∧ t = resetEvent s) ∨
    (∃ w, h = .resetDuring w ∧ t = resetInside w s) := by
  cases h with
  | writeReg off v =>
    simp only [hostStep] at ht
    split at ht
    · cases ht
    · next h4 =>
      split at ht
      · next h0 => exact .inl ⟨v, by rw [h0]; rfl, ht⟩
      · next h0 => exact .inr (.inl ⟨off, v, rfl, h0, by simpa using h4, (Host.Outcome.next.inj ht).symm⟩)
  | readReg off =>
    simp only [hostStep] at ht
    split at ht
    · cases ht
    · next h4 => exact .inr (.inr (.inl ⟨off, rfl, by simpa using h4, (Host.Outcome.next.inj ht).symm⟩))
  | oddAccess size off => cases ht
  | writeMem a bs =>
    simp only [hostStep] at ht
    split at ht
    · next hle => exact .inr (.inr (.inr (.inl ⟨a, bs, rfl, hle, (Host.Outcome.next.inj ht).symm⟩)))
    · cases ht
  | readMem a n =>
    simp only [hostStep] at ht
    split at ht
    · next hle => exact .inr (.inr (.inr (.inr (.inl ⟨a, n, rfl, hle, (Host.Outcome.next.inj ht).symm⟩))))
    · cases ht
  | reset => exact .inr (.inr (.inr (.inr (.inr (.inl ⟨rfl, (Host.Outcome.next.inj ht).symm⟩)))))
  | resetDuring w => exact .inr (.inr (.inr (.inr (.inr (.inr ⟨w, rfl, (Host.Outcome.next.inj ht).symm⟩)))))

end Sys2Proof.Machine
end

