-- ==== Sys2Proof/Laws/Registers.lean ====
section
/-! SUPPORT. The register block as the host sees it (10_state.md R11): a read after a write, register by register; and
runs of several steps. -/

namespace Sys2Proof.Machine

theorem toNat_append {m n : Nat} (x : BitVec m) (y : BitVec n) : (x ++ y).toNat = x.toNat * 2 ^ n + y.toNat := by
  rw [BitVec.toNat_append, ← Nat.shiftLeft_add_eq_or_of_lt y.isLt, Nat.shiftLeft_eq]

/-- The halves of a 64-bit register after a write of one half (R42). -/
theorem halves (x : Word) (y : DWord) : loHalf (hiHalf y ++ x) = x ∧ hiHalf (hiHalf y ++ x) = hiHalf y ∧
    hiHalf (x ++ loHalf y) = x ∧ loHalf (x ++ loHalf y) = loHalf y := by
  have := x.isLt
  have := y.isLt
  refine ⟨?_, ?_, ?_, ?_⟩ <;> apply BitVec.eq_of_toNat_eq <;>
    simp only [hiHalf, loHalf, toNat_append, BitVec.extractLsb'_toNat, Nat.shiftRight_eq_div_pow] <;> omega

/-- A write of one register leaves every other register's reading alone. -/
theorem readReg_writeReg_other (r r' : Reg) (v : Word) (s : State) (h : r' ≠ r) :
    readReg r' (writeReg r v s) = readReg r' s := by
  cases r
  case operandLo => cases r' <;> first | rfl | exact (halves v s.operand).2.1 | exact absurd rfl h
  case operandHi => cases r' <;> first | rfl | exact (halves v s.operand).2.2.2 | exact absurd rfl h
  all_goals (cases r' <;> first | rfl | exact absurd rfl h)

/-- The offset of a register (R11). -/
def Reg.offset (r : Reg) : BitVec 8 := BitVec.ofNat 8 (4 * r.ctorIdx)

/-- A register of the table is found at its offset, and nowhere else. -/
theorem regAt_eq_some (off : BitVec 8) (r : Reg) : regAt off = some r ↔ off = r.offset := by
  constructor
  · intro h
    unfold regAt at h
    cases hf : regTable.find? (fun p => p.1 == off) with
    | none => rw [hf] at h; cases h
    | some p =>
      rw [hf] at h
      have h1 := List.mem_of_find?_eq_some hf
      have h2 := List.find?_some hf
      have hp : p.2 = r := by simpa using h
      have hall : ∀ p ∈ regTable, p.1 = p.2.offset := by decide
      have ho : p.1 = off := by simpa using h2
      rw [← ho, hall p h1, hp]
  · rintro rfl
    cases r <;> decide

/-- A register that the host may write reads back what was written, `ALPHA` its low byte (R151). -/
theorem readReg_writeReg_same (r : Reg) (v : Word) (s : State) (h : r.offset ∈ rwOffsets) :
    readReg r (writeReg r v s) = if r = .alpha then (v.extractLsb' 0 8).zeroExtend 32 else v := by
  cases r
  case operandLo => exact (halves v s.operand).1
  case operandHi => exact (halves v s.operand).2.2.1
  all_goals first | rfl | exact absurd h (by decide)

/-- A read-only register ignores a write (R151). -/
theorem writeReg_readOnly (r : Reg) (v : Word) (s : State) (h : r.offset ∉ rwOffsets) : writeReg r v s = s := by
  cases r <;> first | rfl | exact absurd (by decide) h

/-- One more step of a run. -/
theorem run_succ (k : Nat) (s t : State) (h : step s = .next t) : run (k + 1) s = run k t := by
  simp only [run, h]

end Sys2Proof.Machine
end

