-- ==== Sys2Proof/Laws/Convert.lean ====
section
/-! SUPPORT. CONVERT (42_yuv_convert.md): the answer of the checks (R122), the bytes of one pixel (R127), and the loops
(R128, R129): what a body keeps, the loop keeps. -/

namespace Sys2Proof.Machine

/-! ### The checks -/

/-- The frame that the registers describe. -/
def frameOf (s : State) : Frame :=
  { w := s.width.toInt.toNat, h := s.height.toInt.toNat, ys := s.yStride.toInt.toNat, uvs := s.uvStride.toInt.toNat
    yBase := s.yBase.toNat, uBase := s.uBase.toNat, vBase := s.vBase.toNat, dst := s.dstBase.toNat }

/-- The answer of `convert_check` (R122), check by check. -/
theorem convertCheck_cases (s : State) :
    if s.width.toInt < 0 ∨ s.height.toInt < 0 then convertCheck s = .trap .negDim
    else if s.width.toInt = 0 ∨ s.height.toInt = 0 then convertCheck s = .empty
    else if s.yStride.toInt < 0 ∨ s.uvStride.toInt < 0 then convertCheck s = .trap .negStride
    else if frameWraps s then convertCheck s = .trap .regionWrap
    else if (s.yLen.toNat : Int) ≤ lastLuma s then convertCheck s = .trap .yBounds
    else if (s.uLen.toNat : Int) ≤ lastChroma s then convertCheck s = .trap .uBounds
    else if (s.vLen.toNat : Int) ≤ lastChroma s then convertCheck s = .trap .vBounds
    else if (s.dstCap.toNat : Int) < 4 * s.width.toInt * s.height.toInt then convertCheck s = .trap .dstCap
    else if meetsPlane s s.yBase s.yLen ∨ meetsPlane s s.uBase s.uLen ∨ meetsPlane s s.vBase s.vLen then
      convertCheck s = .trap .overlap
    else convertCheck s = .frame (frameOf s) := by
  have hwrap : (regionWraps s.yBase s.yLen || regionWraps s.uBase s.uLen || regionWraps s.vBase s.vLen
      || regionWraps s.dstBase s.dstCap) = true ↔ frameWraps s := by
    simp only [Bool.or_eq_true, regionWraps_iff, frameWraps]; tauto
  unfold convertCheck
  dsimp only [signed32]
  by_cases h1 : s.width.toInt < 0 ∨ s.height.toInt < 0
  · rw [if_pos h1, if_pos h1]
  rw [if_neg h1, if_neg h1]
  by_cases h2 : s.width.toInt = 0 ∨ s.height.toInt = 0
  · rw [if_pos h2, if_pos h2]
  rw [if_neg h2, if_neg h2]
  by_cases h3 : s.yStride.toInt < 0 ∨ s.uvStride.toInt < 0
  · rw [if_pos h3, if_pos h3]
  rw [if_neg h3, if_neg h3]
  by_cases h4 : frameWraps s
  · rw [if_pos h4, if_pos (hwrap.mpr h4)]
  rw [if_neg h4, if_neg (mt hwrap.mp h4)]
  by_cases h5 : (s.yLen.toNat : Int) ≤ lastLuma s
  · have h' : (s.height.toInt - 1) * s.yStride.toInt + (s.width.toInt - 1) ≥ (s.yLen.toNat : Int) := h5
    rw [if_pos h', if_pos h5]
  have h5' : ¬ (s.height.toInt - 1) * s.yStride.toInt + (s.width.toInt - 1) ≥ (s.yLen.toNat : Int) := h5
  rw [if_neg h5', if_neg h5]
  by_cases h6 : (s.uLen.toNat : Int) ≤ lastChroma s
  · have h' : sra (s.height.toInt - 1) 1 * s.uvStride.toInt + sra (s.width.toInt - 1) 1 ≥ (s.uLen.toNat : Int) := h6
    rw [if_pos h', if_pos h6]
  have h6' : ¬ sra (s.height.toInt - 1) 1 * s.uvStride.toInt + sra (s.width.toInt - 1) 1 ≥ (s.uLen.toNat : Int) := h6
  rw [if_neg h6', if_neg h6]
  by_cases h7 : (s.vLen.toNat : Int) ≤ lastChroma s
  · have h' : sra (s.height.toInt - 1) 1 * s.uvStride.toInt + sra (s.width.toInt - 1) 1 ≥ (s.vLen.toNat : Int) := h7
    rw [if_pos h', if_pos h7]
  have h7' : ¬ sra (s.height.toInt - 1) 1 * s.uvStride.toInt + sra (s.width.toInt - 1) 1 ≥ (s.vLen.toNat : Int) := h7
  rw [if_neg h7', if_neg h7]
  have hsz : ((4 * s.width.toInt.toNat * s.height.toInt.toNat : Nat) : Int) = 4 * s.width.toInt * s.height.toInt := by
    push_cast
    rw [Int.toNat_of_nonneg (by omega), Int.toNat_of_nonneg (by omega)]
  have hov : ∀ base len : Word, overlaps s.dstBase.toNat (4 * s.width.toInt.toNat * s.height.toInt.toNat) base len = true ↔ meetsPlane s base len := by
    intro base len
    unfold overlaps meetsPlane
    rw [decide_eq_true_iff, ← hsz]
    generalize 4 * s.width.toInt.toNat * s.height.toInt.toNat = z
    omega
  by_cases h8 : (s.dstCap.toNat : Int) < 4 * s.width.toInt * s.height.toInt
  · have h' : 4 * s.width.toInt.toNat * s.height.toInt.toNat > s.dstCap.toNat := by rw [← hsz] at h8; omega
    rw [if_pos h', if_pos h8]
  have h8' : ¬ 4 * s.width.toInt.toNat * s.height.toInt.toNat > s.dstCap.toNat := by rw [← hsz] at h8; omega
  rw [if_neg h8', if_neg h8]
  have hov3 : (overlaps s.dstBase.toNat (4 * s.width.toInt.toNat * s.height.toInt.toNat) s.yBase s.yLen ||
      overlaps s.dstBase.toNat (4 * s.width.toInt.toNat * s.height.toInt.toNat) s.uBase s.uLen ||
      overlaps s.dstBase.toNat (4 * s.width.toInt.toNat * s.height.toInt.toNat) s.vBase s.vLen) = true ↔
      (meetsPlane s s.yBase s.yLen ∨ meetsPlane s s.uBase s.uLen ∨ meetsPlane s s.vBase s.vLen) := by
    simp only [Bool.or_eq_true, hov, or_assoc]
  by_cases h9 : meetsPlane s s.yBase s.yLen ∨ meetsPlane s s.uBase s.uLen ∨ meetsPlane s s.vBase s.vLen
  · rw [if_pos h9, if_pos (hov3.mpr h9)]
  rw [if_neg h9, if_neg (mt hov3.mp h9)]
  rfl

/-- The checks accept exactly the frames of `convertAccepts`, and answer the frame of the registers. -/
theorem convertCheck_accepts (s : State) (h : convertAccepts s) : convertCheck s = .frame (frameOf s) := by
  obtain ⟨h1, h2, h3, h4, h5, h6, h7, h8, h9, ha, hb, hc⟩ := h
  have := convertCheck_cases s
  rwa [if_neg (by omega), if_neg (by omega), if_neg (by omega), if_neg h5, if_neg (by omega), if_neg (by omega),
    if_neg (by omega), if_neg (by omega), if_neg (by tauto)] at this

theorem convertCheck_frame (s : State) (f : Frame) (h : convertCheck s = .frame f) : f = frameOf s ∧ convertAccepts s := by
  have := convertCheck_cases s
  rw [h] at this
  repeat' (first | (split at this; (cases this)))
  cases this
  refine ⟨rfl, ?_⟩
  unfold convertAccepts
  refine ⟨by omega, by omega, by omega, by omega, by assumption, by omega, by omega, by omega, by omega, ?_⟩
  tauto

/-! ### One pixel -/

/-- The packed word of a pixel, by its four bytes (R110, R127). -/
theorem pixelWord_eq_argb (y u v : Byte) : pixelWord y u v = argb 255 (red y v) (green y u v) (blue y u) := by
  unfold pixelWord argb
  generalize red y v = r
  generalize green y u v = g
  generalize blue y u = b
  apply BitVec.eq_of_getLsbD_eq
  intro i hi
  simp only [BitVec.getLsbD_or, BitVec.getLsbD_shiftLeft, BitVec.getLsbD_append, BitVec.getLsbD_setWidth,
    BitVec.zeroExtend]
  interval_cases i <;> simp

/-- The components of a packed word (R17). -/
theorem argb_parts (a r g b : Byte) : blueOf (argb a r g b) = b ∧ greenOf (argb a r g b) = g ∧
    redOf (argb a r g b) = r ∧ alphaOf (argb a r g b) = a := by
  have := b.isLt
  have := g.isLt
  have := r.isLt
  have := a.isLt
  refine ⟨?_, ?_, ?_, ?_⟩ <;> apply BitVec.eq_of_toNat_eq <;>
    simp only [redOf, greenOf, blueOf, alphaOf, BitVec.extractLsb'_toNat, Nat.shiftRight_eq_div_pow, argb,
      toNat_append] <;> omega

/-- A 32-bit register that is not negative as two's complement has the same value read both ways (R7). -/
theorem toInt_of_nonneg (x : Word) (h : 0 ≤ x.toInt) : x.toInt = x.toNat := by
  rw [BitVec.toInt_eq_toNat_cond] at *
  split at * <;> omega

/-- Every sample index of R121 of an accepted frame lies inside its plane. -/
theorem accepted_indices (s : State) (h : convertAccepts s) (px py : Nat) (hp : px < s.width.toNat)
    (hq : py < s.height.toNat) :
    py * s.yStride.toNat + px < s.yLen.toNat ∧ (py / 2) * s.uvStride.toNat + px / 2 < s.uLen.toNat ∧
      (py / 2) * s.uvStride.toNat + px / 2 < s.vLen.toNat := by
  obtain ⟨h1, h2, h3, h4, -, h6, h7, h8, -⟩ := h
  have w := toInt_of_nonneg _ h1.le
  have hh := toInt_of_nonneg _ h2.le
  have ys := toInt_of_nonneg _ h3
  have uvs := toInt_of_nonneg _ h4
  unfold lastLuma at h6
  unfold lastChroma at h7 h8
  rw [w, hh, ys] at h6
  rw [w, hh, uvs] at h7 h8
  have luma : (py : Int) * s.yStride.toNat ≤ ((s.height.toNat : Int) - 1) * s.yStride.toNat :=
    Int.mul_le_mul_of_nonneg_right (by omega) (by omega)
  have chroma : ((py / 2 : Nat) : Int) * s.uvStride.toNat ≤ (((s.height.toNat : Int) - 1) / 2) * s.uvStride.toNat :=
    Int.mul_le_mul_of_nonneg_right (by omega) (by omega)
  have inY : ((py * s.yStride.toNat + px : Nat) : Int) < s.yLen.toNat := by
    push_cast
    omega
  have inU : (((py / 2) * s.uvStride.toNat + px / 2 : Nat) : Int) < s.uLen.toNat := by
    push_cast at *
    omega
  have inV : (((py / 2) * s.uvStride.toNat + px / 2 : Nat) : Int) < s.vLen.toNat := by
    push_cast at *
    omega
  omega

/-! ### The loops -/

theorem loop_succ (n : Nat) (body : Nat → Memory → Memory) (m : Memory) :
    loop (n + 1) body m = body n (loop n body m) := rfl

/-- A property that every pass of the body keeps holds after the loop. -/
theorem loop_keeps (P : Memory → Prop) (n : Nat) (body : Nat → Memory → Memory) (m : Memory) (h0 : P m)
    (hstep : ∀ k m, k < n → P m → P (body k m)) : P (loop n body m) := by
  induction n with
  | zero => exact h0
  | succ k ih =>
    rw [loop_succ]
    exact hstep k _ (by omega) (ih (fun j m hj => hstep j m (by omega)))

/-- A property that storing any pixel of the frame keeps holds after the frame. -/
theorem convertFrame_keeps (P : Memory → Prop) (store : Frame → Nat → Nat → Memory → Memory) (f : Frame) (m : Memory)
    (h0 : P m) (hstep : ∀ px py m, px < f.w → py < f.h → P m → P (store f px py m)) :
    P (convertFrame store f m) := by
  unfold convertFrame
  refine loop_keeps P _ _ _ h0 (fun py m hpy hm => ?_)
  exact loop_keeps P _ _ _ hm (fun px m hpx hm => hstep px py m hpx hpy hm)

/-- The word store of `CONVERT.W` writes four bytes at the pixel's address. -/
theorem storePixelW_eq (f : Frame) (px py : Nat) (m : Memory) : ∃ bs : List Byte, bs.length = 4 ∧
    storePixelW f px py m = Memory.writeBytes m (pixelAddr f px py) bs := ⟨_, rfl, rfl⟩

/-- The byte stores of `CONVERT.B` write four bytes at the pixel's address. -/
theorem storePixelB_eq (f : Frame) (px py : Nat) (m : Memory) : ∃ bs : List Byte, bs.length = 4 ∧
    storePixelB f px py m = Memory.writeBytes m (pixelAddr f px py) bs := ⟨_, rfl, rfl⟩

end Sys2Proof.Machine
end

