-- ==== Sys2Proof/Laws/PerInstr.lean ====
section
/-! SUPPORT. Statements for every command, one lemma per constructor of `Instr`. -/

namespace Sys2Proof.Laws.TableRow

/-- The word of a command selects a row of the opcode map (30_encoding.md R62) that bears the command's mnemonic. -/
def Statement (i : Instr) : Prop := ∃ r ∈ opcodeTable, r.mnemonic = i.mnemonic ∧ r.selects (encode i) = true

theorem extB (ord : ByteOrder) : Statement (.extB ord) := by
  cases ord <;> unfold Statement <;> decide

theorem extHBe : Statement .extHBe := by unfold Statement; decide

theorem extHLe : Statement .extHLe := by unfold Statement; decide

theorem extWBe : Statement .extWBe := by unfold Statement; decide

theorem extWLe : Statement .extWLe := by unfold Statement; decide

theorem extDBe : Statement .extDBe := by unfold Statement; decide

theorem extDLe : Statement .extDLe := by unfold Statement; decide

theorem composeB (ord : ByteOrder) : Statement (.composeB ord) := by
  cases ord <;> unfold Statement <;> decide

theorem composeHBe : Statement .composeHBe := by unfold Statement; decide

theorem composeHLe : Statement .composeHLe := by unfold Statement; decide

theorem composeWBe : Statement .composeWBe := by unfold Statement; decide

theorem composeWLe : Statement .composeWLe := by unfold Statement; decide

theorem composeDBe : Statement .composeDBe := by unfold Statement; decide

theorem composeDLe : Statement .composeDLe := by unfold Statement; decide

theorem sumclr : Statement .sumclr := by unfold Statement; decide

theorem sumadd : Statement .sumadd := by unfold Statement; decide

theorem swap : Statement .swap := by unfold Statement; decide

theorem unswap : Statement .unswap := by unfold Statement; decide

theorem convertW : Statement .convertW := by unfold Statement; decide

theorem convertB : Statement .convertB := by unfold Statement; decide

theorem clrerr : Statement .clrerr := by unfold Statement; decide

end Sys2Proof.Laws.TableRow
end

