-- ==== Sys2Proof/Laws/Reset.lean ====
section
/-! SUPPORT. A reset that falls inside a command (70_reset_and_hazards.md R191): the write range, the free bytes. -/

namespace Sys2Proof.Machine

/-- A word that decodes to a command has no bit set above bit 7 (R61, R63). -/
theorem decode_low (w : Word) (i : Instr) (h : decode w = .ok i) : w = (w.extractLsb' 0 8).zeroExtend 32 := by
  have hr : rsvField w = 0#24 := by
    by_contra hc
    simp [decode, hc] at h
  have hn := congrArg BitVec.toNat hr
  apply BitVec.eq_of_toNat_eq
  simp [rsvField, BitVec.extractLsb'_toNat] at hn ⊢
  have := w.isLt
  omega

/-- The words of the three commands that write memory (R62), by their numbers. -/
theorem decode_writers (w : Word) : (decode w = .ok .swap ↔ w.toNat = 0x05) ∧
    (decode w = .ok .convertW ↔ w.toNat = 0x07) ∧ (decode w = .ok .convertB ↔ w.toNat = 0x87) := by
  have low : ∀ b : BitVec 8, (decode (b.zeroExtend 32) = .ok .swap → b.toNat = 0x05) ∧
      (decode (b.zeroExtend 32) = .ok .convertW → b.toNat = 0x07) ∧
      (decode (b.zeroExtend 32) = .ok .convertB → b.toNat = 0x87) := by decide +kernel
  have number : ∀ i, decode w = .ok i → w.toNat = (w.extractLsb' 0 8).toNat := by
    intro i h
    conv_lhs => rw [decode_low w i h]
    have := (w.extractLsb' 0 8).isLt
    simp only [BitVec.zeroExtend, BitVec.toNat_setWidth]
    omega
  have back : ∀ n, n < 2 ^ 32 → w.toNat = n → w = BitVec.ofNat 32 n := fun n hn h => by
    apply BitVec.eq_of_toNat_eq
    rw [h, BitVec.toNat_ofNat, Nat.mod_eq_of_lt hn]
  refine ⟨⟨fun h => ?_, fun h => ?_⟩, ⟨fun h => ?_, fun h => ?_⟩, ⟨fun h => ?_, fun h => ?_⟩⟩
  · rw [number _ h]
    exact (low _).1 (decode_low w _ h ▸ h)
  · rw [back _ (by decide) h]
    rfl
  · rw [number _ h]
    exact (low _).2.1 (decode_low w _ h ▸ h)
  · rw [back _ (by decide) h]
    rfl
  · rw [number _ h]
    exact (low _).2.2 (decode_low w _ h ▸ h)
  · rw [back _ (by decide) h]
    rfl

/-- The range of a frame: that of the registers where the checks accept it, else empty. -/
theorem frame_range (s : State) :
    (convertAccepts s ∧ convertCheck s = .frame (frameOf s) ∧ (frameOf s).w = s.width.toNat ∧
      (frameOf s).h = s.height.toNat) ∨ (¬ convertAccepts s ∧ ∀ f, convertCheck s ≠ .frame f) := by
  by_cases h : convertAccepts s
  · refine .inl ⟨h, convertCheck_accepts s h, ?_, ?_⟩
    · simp [frameOf, toInt_of_nonneg _ h.1.le]
    · simp [frameOf, toInt_of_nonneg _ h.2.1.le]
  · exact .inr ⟨h, fun f hf => h (convertCheck_frame s f hf).2⟩

/-- All that a write range can be: that of an accepted `SWAP`, that of an accepted `CONVERT`, or empty. -/
theorem writeRange_cases (w : Word) (s : State) :
    (swapsUnder w s ∧ writeRange w s = (outAddr s, 4)) ∨
    (convertsUnder w s ∧ writeRange w s = (s.dstBase.toNat, 4 * s.width.toNat * s.height.toNat)) ∨
    (¬ swapsUnder w s ∧ ¬ convertsUnder w s ∧ writeRange w s = (0, 0)) := by
  obtain ⟨hs, hw, hb⟩ := decode_writers w
  unfold writeRange
  by_cases he : s.err = 0
  case neg => exact .inr (.inr ⟨fun h => he h.2.1, fun h => he h.2.1, if_pos he⟩)
  have he' : ¬ s.err ≠ 0#2 := not_not.mpr he
  simp only [if_neg he']
  have noFrame : ∀ c, (∀ f, convertCheck s ≠ .frame f) → c = convertCheck s →
      (match c with | .frame f => (f.dst, 4 * f.w * f.h) | _ => (0, 0)) = (0, 0) := by
    rintro _ h rfl
    split
    · next f hf => exact absurd hf (h f)
    · rfl
  split
  · next hd =>
    have h5 := hs.mp hd
    have hc : ¬ convertsUnder w s := fun h => by
      have := h.1
      omega
    by_cases hr : regionWraps s.outBase s.outCap = true ∨ s.outCap.toNat < s.outPos.toNat + 4
    · refine .inr (.inr ⟨fun h => ?_, hc, if_pos hr⟩)
      have := h.2.2
      rw [regionWraps_iff] at hr
      omega
    · rw [if_neg hr]
      rw [regionWraps_iff] at hr
      exact .inl ⟨⟨h5, he, by omega, by omega⟩, rfl⟩
  · next hd =>
    have h7 := hw.mp hd
    have hns : ¬ swapsUnder w s := fun h => by
      have := h.1
      omega
    rcases frame_range s with ⟨ha, hf, e1, e2⟩ | ⟨ha, hf⟩
    · exact .inr (.inl ⟨⟨.inl h7, he, ha⟩, by rw [hf, ← e1, ← e2]; rfl⟩)
    · exact .inr (.inr ⟨hns, fun h => ha h.2.2, noFrame _ hf rfl⟩)
  · next hd =>
    have h7 := hb.mp hd
    have hns : ¬ swapsUnder w s := fun h => by
      have := h.1
      omega
    rcases frame_range s with ⟨ha, hf, e1, e2⟩ | ⟨ha, hf⟩
    · exact .inr (.inl ⟨⟨.inr h7, he, ha⟩, by rw [hf, ← e1, ← e2]; rfl⟩)
    · exact .inr (.inr ⟨hns, fun h => ha h.2.2, noFrame _ hf rfl⟩)
  · next h1 h2 h3 =>
    exact .inr (.inr ⟨fun h => h1 (hs.mpr h.1),
      fun h => h.1.elim (fun e => h2 (hw.mpr e)) (fun e => h3 (hb.mpr e)), rfl⟩)

/-- A free byte inside the filled range (log entry 7). -/
theorem read_fillFree_inside (m : Memory) (a n c k : Nat) (h : k < n) :
    Memory.read (fillFree m a n c) (a + k) = Config.freeByte (c + k) := by
  unfold fillFree
  rw [Memory.read_writeBytes_inside _ _ _ k (by simpa using h)]
  simp

/-- A byte outside the filled range. -/
theorem read_fillFree_outside (m : Memory) (a n c x : Nat) (h : x < a ∨ a + n ≤ x) :
    Memory.read (fillFree m a n c) x = Memory.read m x :=
  Memory.read_writeBytes_outside _ _ _ _ (by simpa using h)

@[simp] theorem fillFree_zero (m : Memory) (a c : Nat) : fillFree m a 0 c = m := rfl

@[simp] theorem resetInside_mem (w : Word) (s : State) :
    (resetInside w s).mem = fillFree s.mem (writeRange w s).1 (writeRange w s).2 s.freeCount := rfl
@[simp] theorem resetInside_freeCount (w : Word) (s : State) :
    (resetInside w s).freeCount = s.freeCount + (writeRange w s).2 := rfl
@[simp] theorem resetInside_hostQueue (w : Word) (s : State) : (resetInside w s).hostQueue = s.hostQueue := rfl
@[simp] theorem resetInside_replies (w : Word) (s : State) : (resetInside w s).replies = s.replies := rfl
theorem resetInside_registers (w : Word) (s : State) : registersReset (resetInside w s) := rfl

end Sys2Proof.Machine
end

