-- ==== Sys2Proof/Tests/Slice0.lean ====
section
/-! SUPPORT. Tests: expected values are the spec's (95_test_vectors.md, with the section named), never the model's own;
and one witness for each statement's hypotheses, clause by clause. -/

namespace Sys2Proof.Tests

open Sys2Proof Sys2Proof.Machine

/-! ### Helpers -/

/-- A state after reset but for its input cursor and memory. -/
def cur (base len pos : Word) (m : Memory) : State :=
  { State.reset with curBase := base, curLen := len, curPos := pos, mem := m }

/-- A state after reset but for its output cursor and colour. -/
def out (base cap pos pixel : Word) (alpha : Byte) : State :=
  { State.reset with outBase := base, outCap := cap, outPos := pos, pixel := pixel, alpha := alpha }

/-- A state after reset about to take one host step. -/
def host (h : HostStep) : State := { State.reset with hostQueue := [h] }

/-- Does the outcome meet a check of its next state? -/
def after (o : Host.Outcome State Fault Refusal) (p : State → Bool) : Bool :=
  match o with
  | .next t => p t
  | _ => false

/-- `RESULT`, `CUR_POS` and the word `STATUS` after a command. -/
def gives (o : Host.Outcome State Fault Refusal) (r : DWord) (pos st : Word) : Bool :=
  after o (fun t => t.result == r && t.curPos == pos && statusWord t == st)

/-- `STATUS` after a command, everything else as in `s`. -/
def traps (i : Instr) (s : State) (st : Word) : Bool :=
  after (exec i s) (fun t => statusWord t == st && t == { s with err := t.err, cause := t.cause })

/-- The memory of section 2.1. -/
def mem8 : Memory :=
  [(0x1000, 0x12), (0x1001, 0x34), (0x1002, 0x56), (0x1003, 0x78), (0x1004, 0x9A), (0x1005, 0xBC), (0x1006, 0xDE),
   (0x1007, 0xF0)]

/-- The cursor of section 2.1. -/
def c0 : State := cur 0x1000 8 0 mem8

/-- The same at `CUR_POS` = 4. -/
def c4 : State := cur 0x1000 8 4 mem8

/-- The `OPERAND` of section 2.2. -/
def op0 : State := { State.reset with operand := 0xF0DEBC9A78563412 }

/-- The same with another operand. -/
def opd (v : DWord) : State := { State.reset with operand := v }

/-- The pixel of the first line of section 2.4. -/
def px0 : State := out 0x2000 8 0 0x80112233 0xFF

/-- The base state of the precondition table V-C4. -/
def vc4 : State :=
  { State.reset with
    yBase := 0x100, yLen := 4, uBase := 0x200, uLen := 1, vBase := 0x300, vLen := 1, width := 2, height := 2,
    yStride := 2, uvStride := 1, dstBase := 0x400, dstCap := 16 }

/-- The two pixels of V-C5. -/
def vc5 : State :=
  { vc4 with height := 1, mem := [(0x100, 0xEB), (0x101, 0x10), (0x200, 0x80), (0x300, 0x80)] }

/-- The 3x3 frame of V-C1. -/
def vc1 : State :=
  { State.reset with
    yBase := 0x100, yLen := 11, uBase := 0x200, uLen := 4, vBase := 0x300, vLen := 4, width := 3, height := 3,
    yStride := 4, uvStride := 2, dstBase := 0x401, dstCap := 36,
    mem := [(0x100, 0x10), (0x101, 0x51), (0x102, 0x91), (0x104, 0xEB), (0x105, 0x29), (0x106, 0x80), (0x108, 0xC8),
            (0x109, 0x64), (0x10A, 0x3C), (0x200, 0x80), (0x201, 0x36), (0x202, 0xF0), (0x203, 0x5A), (0x300, 0x80),
            (0x301, 0x22), (0x302, 0x6E), (0x303, 0xF0)] }

/-- The 36 bytes that V-C1 gives. -/
def vc1Bytes : List Byte :=
  [0x00, 0x00, 0x00, 0xFF, 0x4C, 0x4C, 0x4C, 0xFF, 0x01, 0xFF, 0x00, 0xFF, 0xFF, 0xFF, 0xFF, 0xFF, 0x1D, 0x1D, 0x1D,
   0xFF, 0x00, 0xEC, 0x00, 0xFF, 0xFF, 0xB9, 0xB9, 0xFF, 0xFF, 0x45, 0x45, 0xFF, 0x00, 0x00, 0xE6, 0xFF]

/-! ### Well-formedness: an ill-formed term for each check -/

theorem test_wf_write_misaligned : (HostStep.writeReg 0x09 0).wf = false := by decide
theorem test_wf_read_misaligned : (HostStep.readReg 0x72).wf = false := by decide
theorem test_wf_not_a_word : (HostStep.oddAccess .half 0x08).wf = false := by decide
theorem test_wf_write_past_memory : (HostStep.writeMem 0xFFFFFFFF [1, 2]).wf = false := by decide
theorem test_wf_read_past_memory : (HostStep.readMem 0xFFFFFFFE 3).wf = false := by decide
theorem test_wf_edges : (HostStep.writeReg 0x6C 0).wf = true ∧ (HostStep.readReg 0x70).wf = true ∧
    (HostStep.writeMem 0xFFFFFFFF [1]).wf = true ∧ (HostStep.readMem 0xFFFFFFFE 2).wf = true := by decide

/-! ### Decoding: every command's word written out from the columns of R62 -/

theorem test_decode_ext_b_be : decode 0b00000000000000000000000000000001#32 = .ok (.extB .be) := by rfl
theorem test_decode_ext_b_le : decode 0b00000000000000000000000000010001#32 = .ok (.extB .le) := by rfl
theorem test_decode_ext_h_be : decode 0b00000000000000000000000000100001#32 = .ok .extHBe := by rfl
theorem test_decode_ext_h_le : decode 0b00000000000000000000000000110001#32 = .ok .extHLe := by rfl
theorem test_decode_ext_w_be : decode 0b00000000000000000000000001000001#32 = .ok .extWBe := by rfl
theorem test_decode_ext_w_le : decode 0b00000000000000000000000001010001#32 = .ok .extWLe := by rfl
theorem test_decode_ext_d_be : decode 0b00000000000000000000000001100001#32 = .ok .extDBe := by rfl
theorem test_decode_ext_d_le : decode 0b00000000000000000000000001110001#32 = .ok .extDLe := by rfl
theorem test_decode_compose_b_be : decode 0b00000000000000000000000000000010#32 = .ok (.composeB .be) := by rfl
theorem test_decode_compose_b_le : decode 0b00000000000000000000000000010010#32 = .ok (.composeB .le) := by rfl
theorem test_decode_compose_h_be : decode 0b00000000000000000000000000100010#32 = .ok .composeHBe := by rfl
theorem test_decode_compose_h_le : decode 0b00000000000000000000000000110010#32 = .ok .composeHLe := by rfl
theorem test_decode_compose_w_be : decode 0b00000000000000000000000001000010#32 = .ok .composeWBe := by rfl
theorem test_decode_compose_w_le : decode 0b00000000000000000000000001010010#32 = .ok .composeWLe := by rfl
theorem test_decode_compose_d_be : decode 0b00000000000000000000000001100010#32 = .ok .composeDBe := by rfl
theorem test_decode_compose_d_le : decode 0b00000000000000000000000001110010#32 = .ok .composeDLe := by rfl
theorem test_decode_sumclr : decode 0b00000000000000000000000000000011#32 = .ok .sumclr := by rfl
theorem test_decode_sumadd : decode 0b00000000000000000000000000000100#32 = .ok .sumadd := by rfl
theorem test_decode_swap : decode 0b00000000000000000000000000000101#32 = .ok .swap := by rfl
theorem test_decode_unswap : decode 0b00000000000000000000000000000110#32 = .ok .unswap := by rfl
theorem test_decode_convert_w : decode 0b00000000000000000000000000000111#32 = .ok .convertW := by rfl
theorem test_decode_convert_b : decode 0b00000000000000000000000010000111#32 = .ok .convertB := by rfl
theorem test_decode_clrerr : decode 0b00000000000000000000000000001000#32 = .ok .clrerr := by rfl

/-- Does the decoder refuse each of the words for this reason? -/
def refused (why : DecodeError) (ws : List Word) : Bool := ws.all (fun w => decode w == .error why)

/-- Section 2.7, `OP` 0 and 9 .. 15: the case of R63 that no row has. -/
theorem test_decode_unknown_op : refused .unknownOp [0x00, 0x09, 0x0F] = true := by decide

/-- Section 2.7, a bit of 31:8 set, bit 8 and bit 31: R63 looks there first. -/
theorem test_decode_reserved_bits : refused .reservedBits [0x101, 0x80000001] = true := by decide

/-- Section 2.7, `FORM` with `EXT`, `COMPOSE` and `CLRERR`. -/
theorem test_decode_form : refused .formNotAllowed [0x81, 0x82, 0x88] = true := by decide

/-- Section 2.7, `ORD` or `LEN` with `SUMCLR`, `SUMADD`, `SWAP`, `UNSWAP`, `CLRERR` and `CONVERT`. -/
theorem test_decode_ord_or_len :
    refused .ordOrLenNotAllowed [0x13, 0x23, 0x24, 0x15, 0x46, 0x18, 0x27, 0x17, 0x97] = true := by decide

theorem test_assemble : assemble "CONVERT.B" = some 0x87 ∧ assemble "EXT.H.LE" = some 0x31 ∧ assemble "NOP" = none := by
  decide

theorem test_decode_table_word : decodeTableWord 32 0x41 = some .extWBe ∧ decodeTableWord 8 0x87 = some .convertB ∧
    decodeTableWord 40 0x100000001 = none := by decide

/-! ### EXT (section 2.1) -/

theorem test_ext_b : gives (exec (.extB .be) c0) 0x12 1 0 = true := by decide
theorem test_ext_b_sign : gives (exec (.extB .le) c4) 0xFFFFFFFFFFFFFF9A 5 0 = true := by decide
theorem test_ext_h_be : gives (exec .extHBe c0) 0x1234 2 0 = true := by decide
theorem test_ext_h_be_sign : gives (exec .extHBe c4) 0xFFFFFFFFFFFF9ABC 6 0 = true := by decide
theorem test_ext_h_le : gives (exec .extHLe c0) 0x3412 2 0 = true := by decide
theorem test_ext_h_le_sign : gives (exec .extHLe c4) 0xFFFFFFFFFFFFBC9A 6 0 = true := by decide
theorem test_ext_w_be : gives (exec .extWBe (cur 0x1001 7 0 mem8)) 0x3456789A 4 0 = true := by decide
theorem test_ext_w_be_sign : gives (exec .extWBe c4) 0xFFFFFFFF9ABCDEF0 8 0 = true := by decide
theorem test_ext_w_le : gives (exec .extWLe c0) 0x78563412 4 0 = true := by decide
theorem test_ext_w_le_sign : gives (exec .extWLe c4) 0xFFFFFFFFF0DEBC9A 8 0 = true := by decide
theorem test_ext_d_be : gives (exec .extDBe c0) 0x123456789ABCDEF0 8 0 = true := by decide
theorem test_ext_d_le : gives (exec .extDLe c0) 0xF0DEBC9A78563412 8 0 = true := by decide
/-- The corner cases: nothing left, no wrap of the position, and the region check first. -/
theorem test_ext_corners : traps .extHBe (cur 0x1000 8 7 mem8) 0x01 = true ∧
    traps (.extB .be) (cur 0x1000 8 0xFFFFFFFF mem8) 0x01 = true ∧
    traps (.extB .be) (cur 0xFFFFFFF8 9 9 []) 0x22 = true := by decide

/-! ### COMPOSE (section 2.2) -/

theorem test_compose_b : gives (exec (.composeB .be) op0) 0x12 0 0 = true := by decide
theorem test_compose_b_sign : gives (exec (.composeB .le) (opd 0x80)) 0xFFFFFFFFFFFFFF80 0 0 = true := by decide
theorem test_compose_h_be : gives (exec .composeHBe op0) 0x1234 0 0 = true := by decide
theorem test_compose_h_be_sign : gives (exec .composeHBe (opd 0xFEFF)) 0xFFFFFFFFFFFFFFFE 0 0 = true := by decide
theorem test_compose_h_le : gives (exec .composeHLe op0) 0x3412 0 0 = true := by decide
theorem test_compose_h_le_upper : gives (exec .composeHLe (opd 0xAAAAAAAAAAAA1234)) 0x1234 0 0 = true := by decide
theorem test_compose_w_be : gives (exec .composeWBe op0) 0x12345678 0 0 = true := by decide
theorem test_compose_w_be_sign : gives (exec .composeWBe (opd 0xFF)) 0xFFFFFFFFFF000000 0 0 = true := by decide
theorem test_compose_w_le : gives (exec .composeWLe op0) 0x78563412 0 0 = true := by decide
theorem test_compose_w_le_low : gives (exec .composeWLe (opd 0xFF)) 0xFF 0 0 = true := by decide
theorem test_compose_d_be : gives (exec .composeDBe op0) 0x123456789ABCDEF0 0 0 = true := by decide
theorem test_compose_d_be_low : gives (exec .composeDBe (opd 0x80)) 0x8000000000000000 0 0 = true := by decide
theorem test_compose_d_le : gives (exec .composeDLe op0) 0xF0DEBC9A78563412 0 0 = true := by decide

/-! ### SUMCLR, SUMADD (section 2.3) -/

theorem test_sumclr :
    after (exec .sumclr { State.reset with acc := 0x0123456789ABCDEF }) (fun t => t == State.reset) = true := by decide
theorem test_sumadd_wrap : after (exec .sumadd { opd 1 with acc := 0xFFFFFFFFFFFFFFFF })
    (fun t => t.acc == 0 && statusWord t == 0) = true := by decide
theorem test_sumadd_carry : after (exec .sumadd { opd 1 with acc := 0x00000000FFFFFFFF })
    (fun t => t.acc == 0x0000000100000000) = true := by decide

/-! ### SWAP, UNSWAP (section 2.4) -/

theorem test_swap : after (exec .swap px0) (fun t => Memory.readBytes t.mem 0x2000 4 == [0x33, 0x22, 0x11, 0xFF] &&
    t.outPos == 4 && t.pixel == 0x80112233) = true := by decide
theorem test_swap_corners : traps .swap (out 0x2000 7 4 0 0) 0xA2 = true ∧ traps .swap (out 0xFFFFFFFE 4 0 0 0) 0x22 = true ∧
    after (exec .swap (out 0xFFFFFFFC 4 0 0x00AABBCC 1)) (fun t => Memory.readBytes t.mem 0xFFFFFFFC 4 ==
      [0xCC, 0xBB, 0xAA, 0x01] && t.outPos == 4) = true := by decide
theorem test_unswap : after (exec .unswap (cur 0x2000 4 0 [(0x2000, 0x33), (0x2001, 0x22), (0x2002, 0x11), (0x2003, 0xFF)]))
    (fun t => t.pixel == 0xFF112233 && t.curPos == 4 && t.result == 0) = true := by decide
theorem test_unswap_corners : traps .unswap (cur 0x2000 3 0 []) 0x01 = true ∧
    traps .unswap (cur 0xFFFFFFFE 4 0 []) 0x22 = true := by decide

/-! ### CONVERT (sections 2.5, 2.6) -/

/-- Lines of the table of section 2.5. -/
theorem test_pixel_words : pixelWord 81 90 240 = 0xFFFF0000 ∧ pixelWord 145 54 34 = 0xFF00FF01 ∧
    pixelWord 100 200 50 = 0xFF0085F3 ∧ pixelWord 16 128 127 = 0xFF000100 ∧ pixelWord 0 255 255 = 0xFFB800ED := by decide
theorem test_convert_w : after (exec .convertW vc1) (fun t => Memory.readBytes t.mem 0x401 36 == vc1Bytes &&
    Memory.read t.mem 0x400 == 0 && Memory.read t.mem 0x425 == 0 && t.dstLen == 36 && statusWord t == 0) = true := by
  decide +kernel
theorem test_convert_b : after (exec .convertB vc5) (fun t => Memory.readBytes t.mem 0x400 8 ==
    [0xFF, 0xFF, 0xFF, 0xFF, 0x00, 0x00, 0x00, 0xFF] && t.dstLen == 8) = true := by decide
/-- The table V-C4, `CONVERT.W`. -/
theorem test_convert_w_checks :
    traps .convertW { vc4 with width := 0xFFFFFFFF } 0x32 = true ∧ traps .convertW { vc4 with height := 0x80000000 } 0x32 = true ∧
    traps .convertW { vc4 with yStride := 0xFFFFFFFF } 0x42 = true ∧ traps .convertW { vc4 with uvStride := 0xFFFFFFFE } 0x42 = true ∧
    traps .convertW { vc4 with yBase := 0xFFFFFFFE } 0x22 = true ∧ traps .convertW { vc4 with dstBase := 0xFFFFFFF8 } 0x22 = true ∧
    traps .convertW { vc4 with yLen := 3 } 0x52 = true ∧ traps .convertW { vc4 with uLen := 0 } 0x62 = true ∧
    traps .convertW { vc4 with vLen := 0 } 0x72 = true ∧ traps .convertW { vc4 with dstCap := 15 } 0x82 = true ∧
    traps .convertW { vc4 with width := 0, height := 0xFFFFFFFF } 0x32 = true := by decide
/-- The wide sizes of V-C4, the overlap limits of V-C3 and the destination ending at 2^32, `CONVERT.B`. -/
theorem test_convert_b_checks :
    traps .convertB { vc4 with
      width := 0x7FFFFFFF, height := 0x7FFFFFFF, yStride := 0, uvStride := 0, yBase := 0, uBase := 0, vBase := 0,
      yLen := 0xFFFFFFFF, uLen := 0xFFFFFFFF, vLen := 0xFFFFFFFF, dstBase := 0, dstCap := 0xFFFFFFFF } 0x82 = true ∧
    traps .convertB { vc4 with dstBase := 0x103 } 0x92 = true ∧ traps .convertB { vc4 with dstBase := 0xF1 } 0x92 = true ∧
    convertCheck { vc4 with dstBase := 0x104 } ≠ .trap .overlap ∧ convertCheck { vc4 with dstBase := 0xF0 } ≠ .trap .overlap ∧
    (convertAccepts { vc4 with dstBase := 0xFFFFFFF0 }) := by decide

/-! ### Control, registers, reset (sections 2.7, 2.8) -/

theorem test_clrerr : after (exec .clrerr { c0 with err := 2, cause := 10 }) (fun t => t == c0) = true := by decide
theorem test_latched_illegal_word : after (step { host (.writeReg 0x00 0x00) with err := 1 })
    (fun t => statusWord t == 0x01) = true := by decide
theorem test_write_latched : after (step { host (.writeReg 0x14 5) with err := 1 })
    (fun t => t.operand == 5 && statusWord t == 0x01) = true := by decide
theorem test_write_alpha : after (step (host (.writeReg 0x30 0x000001FF)))
    (fun t => readOffset 0x30 t == 0x000000FF) = true := by decide
theorem test_write_read_only : after (step (host (.writeReg 0x04 0xFF))) (fun t => t == State.reset) = true ∧
    after (step (host (.writeReg 0x70 9))) (fun t => t == State.reset) = true ∧
    after (step (host (.writeReg 0x74 9))) (fun t => t == State.reset) = true := by decide
theorem test_read_status : after (step { host (.readReg 0x04) with err := 2, cause := 10 })
    (fun t => t.replies == [.word 0xA2]) = true := by decide
theorem test_reset : after (step { host .reset with err := 2, cause := 10, acc := 3, curPos := 12, width := 4, mem := mem8 })
    (fun t => t == { State.reset with mem := mem8 }) = true := by decide
theorem test_with_fetch_word : after (step (State.reset.withFetchWord 32 0x01)) (fun t => statusWord t == 0x01) = true := by
  decide

/-! ### Witnesses: concrete states and operands that meet each statement's hypotheses, clause by clause -/

/-- A state after reset about to write a word to `CMD`. -/
def cmd (w : Word) : State := host (.writeReg 0x00 w)

/-- A state with an error latched. -/
def latched (s : State) : State := { s with err := 1 }

/-- The word 0 decodes to no command. -/
theorem zero_illegal : ∀ i : Instr, decode 0 ≠ .ok i := by
  intro i h
  rw [show decode 0 = .error .unknownOp from rfl] at h
  cases h

theorem witness_DecodeEncodeAgree : (Instr.extB .le).wf = true ∧ decode 0x11 = .ok (.extB .le) ∧
    Instr.convertB.wf = true ∧ decode 0x87 = .ok .convertB := by decide

theorem witness_DecodeFollowsOpcodeMap : decode 0x12 = .ok (.composeB .le) ∧
    (⟨"COMPOSE.B", 0x00000002, 0xFFFFFFEF⟩ ∈ opcodeTable ∧
      (⟨"COMPOSE.B", 0x00000002, 0xFFFFFFEF⟩ : OpcodeRow).selects 0x12 = true) ∧
    (∀ r ∈ opcodeTable, r.selects 0 = false) := by decide

theorem witness_IllegalWordsTrap : (cmd 0).hostQueue = .writeReg 0x00 0 :: [] ∧ (∀ i : Instr, decode 0 ≠ .ok i) ∧
    (cmd 0).err = 0 ∧ (latched (cmd 0)).hostQueue = .writeReg 0x00 0 :: [] ∧ (latched (cmd 0)).err ≠ 0 :=
  ⟨rfl, zero_illegal, rfl, rfl, by decide⟩

theorem witness_StepRunsDecodedCommand : (cmd 0x72).hostQueue = .writeReg 0x00 0x72 :: [] ∧
    decode 0x72 = .ok .composeDLe ∧ Instr.composeDLe.wf = true := by decide

theorem witness_CommandStepFollowsFrontEnd :
    ((latched (cmd 8)).hostQueue = .writeReg 0x00 8 :: [] ∧ (latched (cmd 8)).err ≠ 0) ∧
    ((latched (cmd 3)).hostQueue = .writeReg 0x00 3 :: [] ∧ (latched (cmd 3)).err ≠ 0 ∧ (3 : Word) ≠ 0x00000008) ∧
    ((cmd 0).err = 0 ∧ (∀ i : Instr, decode 0 ≠ .ok i)) ∧ ((cmd 3).err = 0 ∧ decode 3 = .ok .sumclr) :=
  ⟨⟨rfl, by decide⟩, ⟨rfl, by decide, by decide⟩, ⟨rfl, zero_illegal⟩, ⟨rfl, rfl⟩⟩

theorem witness_LatchedCommandsChangeNothing : (latched c0).err ≠ 0 ∧ Instr.sumclr ≠ .clrerr := by decide

theorem witness_TrapsChangeOnlyStatus :
    (∃ t, c0.err = 0 ∧ exec .extDBe c4 = .next t ∧ t.err ≠ 0) ∧
    (∃ t, (cmd 0).hostQueue = .writeReg 0x00 0 :: [] ∧ (cmd 0).err = 0 ∧ step (cmd 0) = .next t ∧ t.err ≠ 0) :=
  ⟨⟨_, rfl, rfl, by decide⟩, ⟨_, rfl, rfl, rfl, by decide⟩⟩

/-- One trap of each of the four groups. -/
theorem witness_CommandsRaiseOnlyTheirCauses :
    (∃ t, c4.err = 0 ∧ exec .extDLe c4 = .next t ∧ t.err ≠ 0) ∧
    (∃ t, State.reset.err = 0 ∧ exec .unswap State.reset = .next t ∧ t.err ≠ 0) ∧
    (∃ t, State.reset.err = 0 ∧ exec .swap State.reset = .next t ∧ t.err ≠ 0) ∧
    (∃ t, vc4.err = 0 ∧ exec .convertB { vc4 with dstCap := 15 } = .next t ∧ t.err ≠ 0) :=
  ⟨⟨_, rfl, rfl, by decide⟩, ⟨_, rfl, rfl, by decide⟩, ⟨_, rfl, rfl, by decide⟩, ⟨_, rfl, rfl, by decide⟩⟩

theorem witness_ClrerrClearsLatch : c0.err = 0 ∧ c0.cause = 0 ∧ (latched c0).err ≠ 0 := by decide

theorem witness_FailureRepeatsAfterClrerr :
    ∃ t u, State.reset.err = 0 ∧ State.reset.cause = 0 ∧ exec .swap State.reset = .next t ∧ t.err ≠ 0 ∧
      exec .clrerr t = .next u :=
  ⟨_, _, rfl, rfl, rfl, by decide, rfl⟩

theorem witness_StepsCompleteExactlyOnWellFormedAccesses :
    ((host (.readMem 0xFFFFFFFF 1)).hostQueue = .readMem 0xFFFFFFFF 1 :: [] ∧ (HostStep.readMem 0xFFFFFFFF 1).wf = true) ∧
    ((host (.readMem 0xFFFFFFFF 2)).hostQueue = .readMem 0xFFFFFFFF 2 :: [] ∧ (HostStep.readMem 0xFFFFFFFF 2).wf = false) := by
  decide

theorem witness_CommandsWriteOnlyTheirRegisters : ∃ t, exec .sumadd (opd 1) = .next t ∧
    (∀ r ∈ extRows, r.1 ≠ .sumadd) ∧ (∀ r ∈ composeRows, r.1 ≠ .sumadd) ∧ Instr.sumadd ≠ .unswap :=
  ⟨_, rfl, by decide, by decide, by decide⟩

/-- The state of V-C5 with another byte of memory just outside its planes and its output. -/
def vc5' : State :=
  { vc5 with
    operand := 1,
    mem := [(0xFF, 7), (0x100, 0xEB), (0x101, 0x10), (0x200, 0x80), (0x300, 0x80), (0x301, 7)] }

/-- Two states with no error latched that differ outside the registers and bytes the command reads, for each clause. -/
theorem witness_CommandsDependOnlyOnTheirRegisters :
    (∃ t t', c0.err = 0 ∧ c0.cause = 0 ∧ (Instr.extHBe, 2, ByteOrder.be) ∈ extRows ∧
      (∀ k, k < 2 → cursorByte c0 k = cursorByte { c0 with acc := 7, mem := [(0x1000, 0x12), (0x1001, 0x34), (0x1002, 9)] } k) ∧
      exec .extHBe c0 = .next t ∧
      exec .extHBe { c0 with acc := 7, mem := [(0x1000, 0x12), (0x1001, 0x34), (0x1002, 9)] } = .next t') ∧
    (∃ t t', (Instr.composeHLe, 2, ByteOrder.le) ∈ composeRows ∧ exec .composeHLe op0 = .next t ∧
      exec .composeHLe { op0 with curPos := 3 } = .next t') ∧
    (∃ t t', exec .sumclr (opd 1) = .next t ∧ exec .sumclr (opd 2) = .next t') ∧
    (∃ t t', exec .sumadd (opd 1) = .next t ∧ exec .sumadd { opd 1 with result := 5 } = .next t') ∧
    (∃ t t', exec .swap px0 = .next t ∧ exec .swap { px0 with mem := mem8 } = .next t') ∧
    (∃ t t', (∀ k, k < 4 → cursorByte c4 k = cursorByte { c4 with mem := mem8.drop 4 } k) ∧ exec .unswap c4 = .next t ∧
      exec .unswap { c4 with mem := mem8.drop 4 } = .next t') ∧
    (∃ t t', samePlane vc5 vc5' vc5.yBase vc5.yLen ∧ samePlane vc5 vc5' vc5.uBase vc5.uLen ∧
      samePlane vc5 vc5' vc5.vBase vc5.vLen ∧ vc5.mem ≠ vc5'.mem ∧ exec .convertB vc5 = .next t ∧
      exec .convertB vc5' = .next t') := by
  have plane : ∀ base len : Word, (∀ k : Fin 4, Memory.read vc5.mem (base.toNat + k) = Memory.read vc5'.mem (base.toNat + k) ∨
      len.toNat ≤ k) → len.toNat ≤ 4 → samePlane vc5 vc5' base len := by
    intro base len h hl k hk
    rcases h ⟨k, by omega⟩ with e | e
    · exact e
    · exact absurd e (by simp only; omega)
  exact ⟨⟨_, _, rfl, rfl, by decide, by decide, rfl, rfl⟩, ⟨_, _, by decide, rfl, rfl⟩, ⟨_, _, rfl, rfl⟩, ⟨_, _, rfl, rfl⟩,
    ⟨_, _, rfl, rfl⟩, ⟨_, _, by decide, rfl, rfl⟩,
    ⟨_, _, plane _ _ (by decide) (by decide), plane _ _ (by decide) (by decide), plane _ _ (by decide) (by decide),
      by decide, rfl, rfl⟩⟩

/-- A state that is not the reset state: memory listed, an error latched, a host write to memory next. -/
theorem witness_StepKeepsInvariant : ∃ t, Inv (latched { c0 with hostQueue := [.writeMem 0xFFFFFFFF [1]] }) ∧
    step (latched { c0 with hostQueue := [.writeMem 0xFFFFFFFF [1]] }) = .next t :=
  ⟨_, by decide, rfl⟩

/-- `EXT` of one byte: a region one byte past 2^32; exactly at 2^32 with no byte left; the last byte of memory. -/
theorem witness_ExtByteFollowsRule :
    (2 ^ 32 < (cur 0xFFFFFFF8 9 9 []).curBase.toNat + (cur 0xFFFFFFF8 9 9 []).curLen.toNat) ∧
    ((cur 0xFFFFFFF8 8 8 []).curBase.toNat + (cur 0xFFFFFFF8 8 8 []).curLen.toNat ≤ 2 ^ 32 ∧
      (cur 0xFFFFFFF8 8 8 []).curLen.toNat < (cur 0xFFFFFFF8 8 8 []).curPos.toNat + 1) ∧
    cursorHas (cur 0xFFFFFFF8 8 7 []) 1 ∧ (cur 0xFFFFFFF8 8 7 []).err = 0 := by decide

theorem witness_ExtHalfFollowsRule :
    (2 ^ 32 < (cur 0xFFFFFFF8 9 0 []).curBase.toNat + (cur 0xFFFFFFF8 9 0 []).curLen.toNat) ∧
    ((cur 0xFFFFFFF8 8 7 []).curBase.toNat + (cur 0xFFFFFFF8 8 7 []).curLen.toNat ≤ 2 ^ 32 ∧
      (cur 0xFFFFFFF8 8 7 []).curLen.toNat < (cur 0xFFFFFFF8 8 7 []).curPos.toNat + 2) ∧
    cursorHas (cur 0xFFFFFFF8 8 6 []) 2 ∧ (cur 0xFFFFFFF8 8 6 []).err = 0 := by decide

theorem witness_ExtWordFollowsRule :
    (2 ^ 32 < (cur 0xFFFFFFF8 9 0 []).curBase.toNat + (cur 0xFFFFFFF8 9 0 []).curLen.toNat) ∧
    ((cur 0xFFFFFFF8 8 5 []).curBase.toNat + (cur 0xFFFFFFF8 8 5 []).curLen.toNat ≤ 2 ^ 32 ∧
      (cur 0xFFFFFFF8 8 5 []).curLen.toNat < (cur 0xFFFFFFF8 8 5 []).curPos.toNat + 4) ∧
    cursorHas (cur 0xFFFFFFF8 8 4 []) 4 ∧ (cur 0xFFFFFFF8 8 4 []).err = 0 := by decide

theorem witness_ExtDoubleFollowsRule :
    (2 ^ 32 < (cur 0xFFFFFFF8 9 0 []).curBase.toNat + (cur 0xFFFFFFF8 9 0 []).curLen.toNat) ∧
    ((cur 0xFFFFFFF8 8 1 []).curBase.toNat + (cur 0xFFFFFFF8 8 1 []).curLen.toNat ≤ 2 ^ 32 ∧
      (cur 0xFFFFFFF8 8 1 []).curLen.toNat < (cur 0xFFFFFFF8 8 1 []).curPos.toNat + 8) ∧
    cursorHas (cur 0xFFFFFFF8 8 0 []) 8 ∧ (cur 0xFFFFFFF8 8 0 []).err = 0 := by decide

/-- The last two bytes taken by one `EXT`; one byte left, too few for `EXT.H.BE`, enough for `EXT.B` (section 2.1). -/
theorem witness_CursorEndBehaves :
    ((Instr.extHBe, 2, ByteOrder.be) ∈ extRows ∧ (Instr.extB .le, 1, ByteOrder.le) ∈ extRows) ∧
    ((cur 0xFFFFFFF8 8 6 []).err = 0 ∧ (cur 0xFFFFFFF8 8 6 []).cause = 0 ∧
      (cur 0xFFFFFFF8 8 6 []).curBase.toNat + (cur 0xFFFFFFF8 8 6 []).curLen.toNat ≤ 2 ^ 32 ∧
      (cur 0xFFFFFFF8 8 6 []).curPos.toNat + 2 = (cur 0xFFFFFFF8 8 6 []).curLen.toNat) ∧
    ((cur 0xFFFFFFF8 8 7 []).curLen.toNat < (cur 0xFFFFFFF8 8 7 []).curPos.toNat + 2 ∧
      (cur 0xFFFFFFF8 8 7 []).curPos.toNat + 1 ≤ (cur 0xFFFFFFF8 8 7 []).curLen.toNat) := by decide

/-- A negative value read at the end of the cursor, and a negative and a positive composed value. -/
theorem witness_ResultHoldsSignedValue :
    (∃ t, (Instr.extWBe, 4, ByteOrder.be) ∈ extRows ∧ c4.err = 0 ∧ cursorHas c4 4 ∧ exec .extWBe c4 = .next t) ∧
    (∃ t, (Instr.composeHBe, 2, ByteOrder.be) ∈ composeRows ∧ (opd 0xFEFF).err = 0 ∧
      exec .composeHBe (opd 0xFEFF) = .next t) :=
  ⟨⟨_, by decide, rfl, by decide, rfl⟩, ⟨_, by decide, rfl, rfl⟩⟩

theorem witness_ComposeFunctionLaws : (0x9ABCDEF0 : Nat) < 2 ^ (8 * 4) ∧ ([0x12, 0x34] : List Byte).length = 2 ∧
    compose [0x12, 0x34] .be = 0x1234 ∧ compose (decompose 0x9ABCDEF0 4 .be) .be = 0x9ABCDEF0 ∧
    decompose 0x9ABCDEF0 4 .be = [0x9A, 0xBC, 0xDE, 0xF0] := by decide

theorem witness_ComposeByteFollowsRule : (opd 0x80).err = 0 := by decide

theorem witness_ComposeBigEndianFollowsRule : (opd 0x8000000000000000).err = 0 := by decide

theorem witness_ComposeLittleEndianFollowsRule : (opd 0xAAAAAAAAAAAA1234).err = 0 := by decide

theorem witness_ExtAgreesWithCompose : ∃ t u, (Instr.extWLe, 4, ByteOrder.le) ∈ extRows ∧
    (Instr.composeWLe, 4, ByteOrder.le) ∈ composeRows ∧ op0.err = 0 ∧
    cursorHas { c0 with operand := 0xF0DEBC9A78563412 } 4 ∧
    (∀ k, k < 4 → operandByte { c0 with operand := 0xF0DEBC9A78563412 } k =
      cursorByte { c0 with operand := 0xF0DEBC9A78563412 } k) ∧
    exec .extWLe { c0 with operand := 0xF0DEBC9A78563412 } = .next t ∧
    exec .composeWLe { c0 with operand := 0xF0DEBC9A78563412 } = .next u :=
  ⟨_, _, by decide, by decide, by decide, by decide, by decide, rfl, rfl⟩

theorem witness_SumCommandsFollowRules : { opd 1 with acc := 0xFFFFFFFFFFFFFFFF }.err = 0 := by decide

/-- Program P4's first two values, with a host step still to come. -/
theorem witness_SumOfSequence :
    (State.reset.setQueue (scriptSum [0x7FFFFFFFFFFFFFFF, 1] ++ [.readReg 0x24])).err = 0 ∧
    (State.reset.setQueue (scriptSum [0x7FFFFFFFFFFFFFFF, 1] ++ [.readReg 0x24])).hostQueue =
      scriptSum [0x7FFFFFFFFFFFFFFF, 1] ++ [.readReg 0x24] := ⟨rfl, rfl⟩

/-- A region past 2^32, one byte too little capacity, and the last pixel below 2^32. -/
theorem witness_SwapFollowsRule :
    (2 ^ 32 < (out 0xFFFFFFFE 4 0 0 0).outBase.toNat + (out 0xFFFFFFFE 4 0 0 0).outCap.toNat) ∧
    ((out 0xFFFFFFF9 7 4 0 0).outBase.toNat + (out 0xFFFFFFF9 7 4 0 0).outCap.toNat ≤ 2 ^ 32 ∧
      (out 0xFFFFFFF9 7 4 0 0).outCap.toNat < (out 0xFFFFFFF9 7 4 0 0).outPos.toNat + 4) ∧
    outHasPixel (out 0xFFFFFFF8 8 4 0x00AABBCC 1) ∧ (out 0xFFFFFFF8 8 4 0x00AABBCC 1).err = 0 := by decide

theorem witness_UnswapFollowsRule :
    (2 ^ 32 < (cur 0xFFFFFFF8 9 0 []).curBase.toNat + (cur 0xFFFFFFF8 9 0 []).curLen.toNat) ∧
    ((cur 0xFFFFFFF8 8 5 []).curBase.toNat + (cur 0xFFFFFFF8 8 5 []).curLen.toNat ≤ 2 ^ 32 ∧
      (cur 0xFFFFFFF8 8 5 []).curLen.toNat < (cur 0xFFFFFFF8 8 5 []).curPos.toNat + 4) ∧
    cursorHas (cur 0xFFFFFFF8 8 4 []) 4 ∧ (cur 0xFFFFFFF8 8 4 []).err = 0 := by decide

theorem witness_SwapUnswapRoundTrip :
    (∃ t, px0.err = 0 ∧ outHasPixel px0 ∧ exec .swap px0 = .next t ∧ (0x2000 : Word).toNat + (4 : Word).toNat ≤ 2 ^ 32 ∧
      (0 : Word).toNat + 4 ≤ (4 : Word).toNat ∧ (0x2000 : Word).toNat + (0 : Word).toNat = outAddr px0) ∧
    (out 0x2000 8 0 0x12345678 0x12).alpha = (out 0x2000 8 0 0x12345678 0x12).pixel.extractLsb' 24 8 ∧
    (∃ t, c4.err = 0 ∧ cursorHas c4 4 ∧ exec .unswap c4 = .next t ∧ (0x1004 : Word).toNat + (4 : Word).toNat ≤ 2 ^ 32 ∧
      (0 : Word).toNat + 4 ≤ (4 : Word).toNat ∧ (0x1004 : Word).toNat + (0 : Word).toNat = cursorAddr c4) :=
  ⟨⟨_, rfl, by decide, rfl, by decide, by decide, by decide⟩, by decide,
    ⟨_, rfl, by decide, rfl, by decide, by decide, by decide⟩⟩

/-- One state for each branch of the chain, most of them one away from passing (V-C3, V-C4). -/
theorem witness_ConvertChecksInOrder :
    vc4.err = 0 ∧ { vc4 with width := 0xFFFFFFFF }.width.toInt < 0 ∧ { vc4 with height := 0 }.height.toInt = 0 ∧
    { vc4 with yStride := 0xFFFFFFFF }.yStride.toInt < 0 ∧ frameWraps { vc4 with dstBase := 0xFFFFFFF1 } ∧
    (({ vc4 with yLen := 3 }.yLen.toNat : Int) ≤ lastLuma { vc4 with yLen := 3 }) ∧
    (({ vc4 with uLen := 0 }.uLen.toNat : Int) ≤ lastChroma { vc4 with uLen := 0 }) ∧
    (({ vc4 with vLen := 0 }.vLen.toNat : Int) ≤ lastChroma { vc4 with vLen := 0 }) ∧
    (({ vc4 with dstCap := 15 }.dstCap.toNat : Int) < 4 * vc4.width.toInt * vc4.height.toInt) ∧
    meetsPlane { vc4 with dstBase := 0x103 } vc4.yBase vc4.yLen ∧ meetsPlane { vc4 with dstBase := 0x1F1 } vc4.uBase vc4.uLen ∧
    meetsPlane { vc4 with dstBase := 0x2F1 } vc4.vBase vc4.vLen ∧ convertAccepts vc4 ∧
    convertAccepts { vc4 with dstBase := 0xFFFFFFF0 } :=
  ⟨rfl, by decide, rfl, by decide, by decide, by decide, by decide, by decide, by decide, by decide, by decide, by decide,
    by decide, by decide⟩

theorem witness_ZeroDimensionConvertsNothing :
    ({ vc4 with width := 0 }.err = 0 ∧ 0 ≤ { vc4 with width := 0 }.width.toInt ∧ 0 ≤ vc4.height.toInt ∧
      { vc4 with width := 0 }.width.toInt = 0) ∧ (vc4.err = 0 ∧ { vc4 with height := 0xFFFFFFFF }.height.toInt < 0) := by
  decide

theorem witness_ConvertWritesFrame : vc1.err = 0 ∧ convertAccepts vc1 ∧ 2 < vc1.width.toNat ∧ 2 < vc1.height.toNat ∧
    0x400 < vc1.dstBase.toNat ∧ vc1.dstBase.toNat + 4 * vc1.width.toNat * vc1.height.toNat ≤ 0x425 := by decide

theorem witness_ConvertFormsAgree : ∃ t, vc5.err = 0 ∧ convertAccepts vc5 ∧ exec .convertW vc5 = .next t ∧
    1 < vc5.width.toNat ∧ 0 < vc5.height.toNat :=
  ⟨_, rfl, by decide, rfl, by decide, by decide⟩

theorem witness_ConvertKeepsPlanes : ∃ t, exec .convertB vc5 = .next t ∧ 3 < vc5.yLen.toNat ∧ 0 < vc5.vLen.toNat :=
  ⟨_, rfl, by decide, by decide⟩

theorem witness_HostRegisterWrite : (host (.writeReg 0x30 0x1FF)).hostQueue = .writeReg 0x30 0x1FF :: [] ∧
    (0x30 : BitVec 8).toNat % 4 = 0 ∧ (0x30 : BitVec 8) ≠ 0 ∧ 0x30 ∈ rwOffsets ∧ 0xFC ∉ rwOffsets ∧ 0x70 ∉ rwOffsets := by
  decide

theorem witness_HostRegisterRead : (host (.readReg 0xFC)).hostQueue = .readReg 0xFC :: [] ∧
    (0xFC : BitVec 8).toNat % 4 = 0 ∧ 0x74 ≤ (0x74 : BitVec 8).toNat ∧ (0x05 : BitVec 8).toNat % 4 ≠ 0 ∧
    (host (.writeReg 0x05 1)).hostQueue = .writeReg 0x05 1 :: [] ∧
    (host (.oddAccess .byte 0x08)).hostQueue = .oddAccess .byte 0x08 :: [] := by decide

theorem witness_HostMemoryAccess : (host (.writeMem 0xFFFFFFFE [1, 2])).hostQueue = .writeMem 0xFFFFFFFE [1, 2] :: [] ∧
    0xFFFFFFFE + ([1, 2] : List Byte).length ≤ 2 ^ 32 ∧ (host (.readMem 0 3)).hostQueue = .readMem 0 3 :: [] := by decide

theorem witness_HostAccessOutsideMemoryFaults :
    (host (.writeMem 0xFFFFFFFF [1, 2])).hostQueue = .writeMem 0xFFFFFFFF [1, 2] :: [] ∧
    2 ^ 32 < 0xFFFFFFFF + ([1, 2] : List Byte).length ∧
    (host (.readMem 0xFFFFFFFF 2)).hostQueue = .readMem 0xFFFFFFFF 2 :: [] ∧ 2 ^ 32 < 0xFFFFFFFF + 2 := by decide

theorem witness_ResetZeroesRegisters : (host .reset).hostQueue = .reset :: [] ∧
    registersReset { State.reset with mem := mem8, hostQueue := [.readReg 0] } ∧
    (Instr.extB .be, 1, ByteOrder.be) ∈ extRows := ⟨rfl, rfl, by decide⟩

/-- A state whose host next drops the reset line inside the command `w`. -/
def during (w : Word) (s : State) : State := { s with hostQueue := [.resetDuring w] }

/-- A reset inside an accepted `SWAP` (the last pixel below 2^32), inside an accepted `CONVERT` (a frame that ends at
2^32), and inside words that write nothing: `EXT.H.BE`, an illegal word, and the writers one step from being accepted
(one byte too little capacity, an error latched, an empty frame). -/
theorem witness_ResetInsideCommandTouchesOnlyItsRange :
    (∀ (w : Word) (s : State), (during w s).hostQueue = .resetDuring w :: []) ∧
    swapsUnder 0x05 (during 0x05 (out 0xFFFFFFF8 8 4 0 0)) ∧
    convertsUnder 0x87 (during 0x87 { vc4 with dstBase := 0xFFFFFFF0 }) ∧ convertsUnder 0x07 (during 0x07 vc4) ∧
    (¬ swapsUnder 0x21 (during 0x21 c0) ∧ ¬ convertsUnder 0x21 (during 0x21 c0)) ∧
    (¬ swapsUnder 0x00 (during 0x00 px0) ∧ ¬ convertsUnder 0x00 (during 0x00 px0)) ∧
    (¬ swapsUnder 0x05 (during 0x05 (out 0xFFFFFFF8 8 5 0 0)) ∧ ¬ convertsUnder 0x05 (during 0x05 (out 0xFFFFFFF8 8 5 0 0))) ∧
    (¬ swapsUnder 0x05 (during 0x05 (latched px0)) ∧ ¬ convertsUnder 0x05 (during 0x05 (latched px0))) ∧
    (¬ swapsUnder 0x07 (during 0x07 { vc4 with width := 0 }) ∧ ¬ convertsUnder 0x07 (during 0x07 { vc4 with width := 0 })) :=
  ⟨fun _ _ => rfl, by decide, by decide, by decide, by decide, by decide, by decide, by decide, by decide⟩

end Sys2Proof.Tests
end

section
/-! SUPPORT. The commands by family, what each family may write, and what its outcome depends on (10_state.md R30). -/

namespace Sys2Proof.Machine

/-! ### `exec` by families of commands -/

/-- A row of `EXT` is the extraction of its length and order, behind the front end (R81). -/
theorem exec_of_mem_extRows {i : Instr} {n : Nat} {o : ByteOrder} (h : (i, n, o) ∈ extRows) :
    ∃ l : Length, l.bytes = n ∧ ∀ s, exec i s = command (extract l o) s := by
  simp only [extRows, List.mem_cons, Prod.mk.injEq, List.not_mem_nil, or_false] at h
  obtain ⟨rfl, rfl, rfl⟩ | ⟨rfl, rfl, rfl⟩ | ⟨rfl, rfl, rfl⟩ | ⟨rfl, rfl, rfl⟩ | ⟨rfl, rfl, rfl⟩ | ⟨rfl, rfl, rfl⟩ |
    ⟨rfl, rfl, rfl⟩ | ⟨rfl, rfl, rfl⟩ := h
  exacts [⟨.b, rfl, fun _ => rfl⟩, ⟨.b, rfl, fun _ => rfl⟩, ⟨.h, rfl, fun _ => rfl⟩, ⟨.h, rfl, fun _ => rfl⟩,
    ⟨.w, rfl, fun _ => rfl⟩, ⟨.w, rfl, fun _ => rfl⟩, ⟨.d, rfl, fun _ => rfl⟩, ⟨.d, rfl, fun _ => rfl⟩]

/-- A row of `COMPOSE` is the composition of its length and order, behind the front end (R91). -/
theorem exec_of_mem_composeRows {i : Instr} {n : Nat} {o : ByteOrder} (h : (i, n, o) ∈ composeRows) :
    ∃ l : Length, l.bytes = n ∧ ∀ s, exec i s = command (composeOperand l o) s := by
  simp only [composeRows, List.mem_cons, Prod.mk.injEq, List.not_mem_nil, or_false] at h
  obtain ⟨rfl, rfl, rfl⟩ | ⟨rfl, rfl, rfl⟩ | ⟨rfl, rfl, rfl⟩ | ⟨rfl, rfl, rfl⟩ | ⟨rfl, rfl, rfl⟩ | ⟨rfl, rfl, rfl⟩ |
    ⟨rfl, rfl, rfl⟩ | ⟨rfl, rfl, rfl⟩ := h
  exacts [⟨.b, rfl, fun _ => rfl⟩, ⟨.b, rfl, fun _ => rfl⟩, ⟨.h, rfl, fun _ => rfl⟩, ⟨.h, rfl, fun _ => rfl⟩,
    ⟨.w, rfl, fun _ => rfl⟩, ⟨.w, rfl, fun _ => rfl⟩, ⟨.d, rfl, fun _ => rfl⟩, ⟨.d, rfl, fun _ => rfl⟩]

/-- The two stores of one pixel write the same bytes (R127 to R129). -/
theorem storePixelW_eq_storePixelB : storePixelW = storePixelB := by
  funext f px py m
  unfold storePixelW storePixelB Memory.writeWord
  rw [pixelWord_eq_argb]
  generalize lumaAt f m px py = y
  generalize uAt f m px py = u
  generalize vAt f m px py = v
  obtain ⟨hb, hg, hr, ha⟩ := argb_parts 255 (red y v) (green y u v) (blue y u)
  unfold blueOf at hb
  unfold greenOf at hg
  unfold redOf at hr
  unfold alphaOf at ha
  rw [hb, hg, hr, ha]

/-- Both forms of `CONVERT` are the conversion by byte stores, behind the front end (R130). -/
theorem exec_convert {i : Instr} (h : i = .convertW ∨ i = .convertB) (s : State) :
    exec i s = command (convert storePixelB) s := by
  obtain rfl | rfl := h
  · rw [← storePixelW_eq_storePixelB]
    rfl
  · rfl

/-- Every command belongs to one row of the access matrix (R30, R62). -/
theorem instr_families (i : Instr) :
    (∃ n o, (i, n, o) ∈ extRows) ∨ (∃ n o, (i, n, o) ∈ composeRows) ∨ i = .sumclr ∨ i = .sumadd ∨ i = .swap ∨
      i = .unswap ∨ (i = .convertW ∨ i = .convertB) ∨ i = .clrerr := by
  cases i with
  | extB o => cases o <;> simp [extRows]
  | composeB o => cases o <;> simp [composeRows]
  | extHBe | extHLe | extWBe | extWLe | extDBe | extDLe => simp [extRows]
  | composeHBe | composeHLe | composeWBe | composeWLe | composeDBe | composeDLe => simp [composeRows]
  | sumclr | sumadd | swap | unswap | convertW | convertB | clrerr => simp

/-! ### What each family may write (R30) -/

/-- `EXT` writes `STATUS`, `CUR_POS` and `RESULT` only. -/
theorem extract_frame (l : Length) (o : ByteOrder) (s : State) :
    ∃ e c p r, extract l o s = { s with err := e, cause := c, curPos := p, result := r } := by
  obtain ⟨-, h⟩ | ⟨-, -, h⟩ | ⟨-, -, h⟩ := extract_cases l o s <;> exact ⟨_, _, _, _, h⟩

/-- `UNSWAP` writes `STATUS`, `CUR_POS` and `PIXEL` only. -/
theorem unswapPixel_frame (s : State) :
    ∃ e c p x, unswapPixel s = { s with err := e, cause := c, curPos := p, pixel := x } := by
  obtain ⟨-, h⟩ | ⟨-, -, h⟩ | ⟨-, -, h⟩ := unswapPixel_cases s <;> exact ⟨_, _, _, _, h⟩

/-- `SWAP` writes `STATUS`, `OUT_POS` and `M` only. -/
theorem swapPixel_frame (s : State) :
    ∃ e c p m, swapPixel s = { s with err := e, cause := c, outPos := p, mem := m } := by
  obtain ⟨-, h⟩ | ⟨-, -, h⟩ | ⟨-, -, h⟩ := swapPixel_cases s <;> exact ⟨_, _, _, _, h⟩

/-- `CONVERT` writes `STATUS`, `DST_LEN` and `M` only. -/
theorem convert_frame (store : Frame → Nat → Nat → Memory → Memory) (s : State) :
    ∃ e c d m, convert store s = { s with err := e, cause := c, dstLen := d, mem := m } := by
  obtain ⟨c, -, h⟩ | ⟨-, h⟩ | ⟨f, -, h⟩ := convert_cases store s <;> exact ⟨_, _, _, _, h⟩

theorem exec_ext_frame {i : Instr} {n : Nat} {o : ByteOrder} {s t : State} (hi : (i, n, o) ∈ extRows)
    (h : exec i s = .next t) : ∃ e c p r, t = { s with err := e, cause := c, curPos := p, result := r } := by
  obtain ⟨l, -, hexec⟩ := exec_of_mem_extRows hi
  obtain ⟨-, rfl⟩ | ⟨-, rfl⟩ := command_next _ s t (hexec s ▸ h)
  · exact extract_frame l o s
  · exact ⟨_, _, _, _, rfl⟩

theorem exec_compose_frame {i : Instr} {n : Nat} {o : ByteOrder} {s t : State} (hi : (i, n, o) ∈ composeRows)
    (h : exec i s = .next t) : ∃ r, t = { s with result := r } := by
  obtain ⟨l, -, hexec⟩ := exec_of_mem_composeRows hi
  obtain ⟨-, rfl⟩ | ⟨-, rfl⟩ := command_next _ s t (hexec s ▸ h)
  · exact ⟨_, composeOperand_eq l o s⟩
  · exact ⟨_, rfl⟩

theorem exec_sumclr_frame {s t : State} (h : exec .sumclr s = .next t) : ∃ a, t = { s with acc := a } := by
  obtain ⟨-, rfl⟩ | ⟨-, rfl⟩ := command_next _ s t h
  · exact ⟨_, rfl⟩
  · exact ⟨_, rfl⟩

theorem exec_sumadd_frame {s t : State} (h : exec .sumadd s = .next t) : ∃ a, t = { s with acc := a } := by
  obtain ⟨-, rfl⟩ | ⟨-, rfl⟩ := command_next _ s t h
  · exact ⟨_, rfl⟩
  · exact ⟨_, rfl⟩

theorem exec_swap_frame {s t : State} (h : exec .swap s = .next t) :
    ∃ e c p m, t = { s with err := e, cause := c, outPos := p, mem := m } := by
  obtain ⟨-, rfl⟩ | ⟨-, rfl⟩ := command_next _ s t h
  · exact swapPixel_frame s
  · exact ⟨_, _, _, _, rfl⟩

theorem exec_unswap_frame {s t : State} (h : exec .unswap s = .next t) :
    ∃ e c p x, t = { s with err := e, cause := c, curPos := p, pixel := x } := by
  obtain ⟨-, rfl⟩ | ⟨-, rfl⟩ := command_next _ s t h
  · exact unswapPixel_frame s
  · exact ⟨_, _, _, _, rfl⟩

theorem exec_convert_frame {i : Instr} {s t : State} (hi : i = .convertW ∨ i = .convertB) (h : exec i s = .next t) :
    ∃ e c d m, t = { s with err := e, cause := c, dstLen := d, mem := m } := by
  obtain ⟨-, rfl⟩ | ⟨-, rfl⟩ := command_next _ s t (exec_convert hi s ▸ h)
  · exact convert_frame storePixelB s
  · exact ⟨_, _, _, _, rfl⟩

theorem exec_clrerr_frame {s t : State} (h : exec .clrerr s = .next t) : t = { s with err := 0, cause := 0 } :=
  (Host.Outcome.next.inj h).symm

end Sys2Proof.Machine
end

section
/-! SUPPORT. The frame that `CONVERT` writes, byte by byte (42_yuv_convert.md R127 to R129): the last store to an output
byte is the one that counts, and no store reaches a sample. -/

namespace Sys2Proof.Machine

/-! ### One pixel -/

/-- The four bytes of an output pixel: B, G, R, 255 (R127, R129). -/
def pixelBytes (f : Frame) (m : Memory) (px py : Nat) : List Byte :=
  [blue (lumaAt f m px py) (uAt f m px py), green (lumaAt f m px py) (uAt f m px py) (vAt f m px py),
    red (lumaAt f m px py) (vAt f m px py), 255]

theorem storePixelB_eq_writeBytes (f : Frame) (px py : Nat) (m : Memory) :
    storePixelB f px py m = Memory.writeBytes m (pixelAddr f px py) (pixelBytes f m px py) := rfl

/-- The address is none of the output range of the frame (R45). -/
abbrev outsideOutput (f : Frame) (a : Nat) : Prop := a < f.dst ∨ f.dst + 4 * f.w * f.h ≤ a

/-- No sample of the frame lies in its output range (check 9 of R122). -/
def samplesOutside (f : Frame) : Prop :=
  ∀ px py, px < f.w → py < f.h → outsideOutput f (lumaAddr f px py) ∧
    outsideOutput f (f.uBase + chromaIndex f px py) ∧ outsideOutput f (f.vBase + chromaIndex f px py)

/-- A pixel of the frame ends inside the output range. -/
theorem pixelAddr_add_four_le {f : Frame} {px py : Nat} (hx : px < f.w) (hy : py < f.h) :
    pixelAddr f px py + 4 ≤ f.dst + 4 * f.w * f.h := by
  have hrows : (py + 1) * f.w ≤ f.h * f.w := Nat.mul_le_mul_right _ hy
  rw [Nat.add_mul] at hrows
  rw [show 4 * f.w * f.h = 4 * (f.h * f.w) by ring]
  unfold pixelAddr
  omega

/-- Pixels of different coordinates have different numbers. -/
theorem pixelIndex_inj {w px py px' py' : Nat} (hx : px < w) (hx' : px' < w)
    (h : py * w + px = py' * w + px') : px = px' ∧ py = py' := by
  have hw : 0 < w := by omega
  have hcol := congrArg (· % w) h
  have hrow := congrArg (· / w) h
  simp only [Nat.mul_comm _ w, Nat.mul_add_mod, Nat.mod_eq_of_lt hx, Nat.mod_eq_of_lt hx'] at hcol
  simp only [Nat.mul_comm _ w, Nat.mul_add_div hw, Nat.div_eq_of_lt hx, Nat.div_eq_of_lt hx'] at hrow
  omega

theorem read_storePixelB_outside {f : Frame} {px py a : Nat} {m : Memory} (hx : px < f.w) (hy : py < f.h)
    (ha : outsideOutput f a) : Memory.read (storePixelB f px py m) a = Memory.read m a := by
  have hend := pixelAddr_add_four_le hx hy
  have hstart : f.dst ≤ pixelAddr f px py := Nat.le_add_right _ _
  refine Memory.read_writeBytes_outside _ _ _ _ ?_
  change a < pixelAddr f px py ∨ pixelAddr f px py + 4 ≤ a
  omega

theorem read_storePixelB_same (f : Frame) (px py : Nat) (m : Memory) {j : Nat} (hj : j < 4) :
    Memory.read (storePixelB f px py m) (pixelAddr f px py + j) = (pixelBytes f m px py).getD j 0 := by
  have hlen : j < (pixelBytes f m px py).length := hj
  rw [storePixelB_eq_writeBytes, Memory.read_writeBytes_inside _ _ _ j hlen, List.getD_eq_getElem _ _ hlen]

theorem read_storePixelB_other {f : Frame} {px py px' py' j : Nat} {m : Memory} (hx : px < f.w) (hx' : px' < f.w)
    (hne : (px', py') ≠ (px, py)) (hj : j < 4) :
    Memory.read (storePixelB f px' py' m) (pixelAddr f px py + j) = Memory.read m (pixelAddr f px py + j) := by
  have hindex : py * f.w + px ≠ py' * f.w + px' := fun h => by
    obtain ⟨rfl, rfl⟩ := pixelIndex_inj hx hx' h
    exact hne rfl
  refine Memory.read_writeBytes_outside _ _ _ _ ?_
  change pixelAddr f px py + j < pixelAddr f px' py' ∨ pixelAddr f px' py' + 4 ≤ pixelAddr f px py + j
  unfold pixelAddr
  omega

/-- The bytes of a pixel depend on its three samples only. -/
theorem pixelBytes_congr {f : Frame} {m m' : Memory} {px py : Nat} (hy : lumaAt f m px py = lumaAt f m' px py)
    (hu : uAt f m px py = uAt f m' px py) (hv : vAt f m px py = vAt f m' px py) :
    pixelBytes f m px py = pixelBytes f m' px py := by
  unfold pixelBytes
  rw [hy, hu, hv]

/-! ### The whole frame -/

/-- What one pass establishes and every other pass keeps holds after the loop. -/
theorem loop_establishes {I Q : Memory → Prop} {n k : Nat} {body : Nat → Memory → Memory} {m : Memory} (hk : k < n)
    (h0 : I m) (hI : ∀ j m, j < n → I m → I (body j m)) (hmake : ∀ m, I m → Q (body k m))
    (hkeep : ∀ j m, j < n → j ≠ k → Q m → Q (body j m)) : Q (loop n body m) := by
  induction n with
  | zero => omega
  | succ n ih =>
    rw [loop_succ]
    by_cases hlast : n = k
    · subst hlast
      exact hmake _ (loop_keeps I n body m h0 fun j m hj => hI j m (by omega))
    · exact hkeep n _ (by omega) hlast
        (ih (by omega) (fun j m hj => hI j m (by omega)) (fun j m hj => hkeep j m (by omega)))

/-- What storing one pixel establishes and storing every other pixel keeps holds after the frame. -/
theorem convertFrame_establishes {I Q : Memory → Prop} {store : Frame → Nat → Nat → Memory → Memory} {f : Frame}
    {m : Memory} {px py : Nat} (hx : px < f.w) (hy : py < f.h) (h0 : I m)
    (hI : ∀ px py m, px < f.w → py < f.h → I m → I (store f px py m)) (hmake : ∀ m, I m → Q (store f px py m))
    (hkeep : ∀ px' py' m, px' < f.w → py' < f.h → (px', py') ≠ (px, py) → Q m → Q (store f px' py' m)) :
    Q (convertFrame store f m) := by
  unfold convertFrame
  refine loop_establishes hy h0 (fun j m hj hm => ?_) (fun m hm => ?_) (fun j m hj hne hm => ?_)
  · exact loop_keeps I _ _ _ hm fun i m hi => hI i j m hi hj
  · exact loop_establishes hx hm (fun i m hi => hI i py m hi hy) hmake
      fun i m hi hne => hkeep i py m hi hy (by simp [hne])
  · exact loop_keeps Q _ _ _ hm fun i m hi => hkeep i j m hi hj (by simp [hne])

/-- `CONVERT` changes no byte outside the output range. -/
theorem read_convertFrame_outside {f : Frame} {a : Nat} (m : Memory) (ha : outsideOutput f a) :
    Memory.read (convertFrame storePixelB f m) a = Memory.read m a :=
  convertFrame_keeps (fun m' => Memory.read m' a = Memory.read m a) storePixelB f m rfl
    fun _ _ _ hx hy hm => (read_storePixelB_outside hx hy ha).trans hm

/-- A memory that differs in the output range only gives every pixel the same bytes. -/
theorem pixelBytes_of_unchanged_outside {f : Frame} {m m' : Memory} {px py : Nat} (hf : samplesOutside f)
    (hx : px < f.w) (hy : py < f.h) (h : ∀ a, outsideOutput f a → Memory.read m' a = Memory.read m a) :
    pixelBytes f m' px py = pixelBytes f m px py := by
  obtain ⟨hluma, hu, hv⟩ := hf px py hx hy
  exact pixelBytes_congr (h _ hluma) (h _ hu) (h _ hv)

/-- Each output byte of `CONVERT` is that of its pixel, from the samples before the command (R128, R129). -/
theorem read_convertFrame_inside {f : Frame} (m : Memory) {px py j : Nat} (hf : samplesOutside f) (hx : px < f.w)
    (hy : py < f.h) (hj : j < 4) :
    Memory.read (convertFrame storePixelB f m) (pixelAddr f px py + j) = (pixelBytes f m px py).getD j 0 := by
  refine convertFrame_establishes (I := fun m' => ∀ a, outsideOutput f a → Memory.read m' a = Memory.read m a)
    (Q := fun m' => Memory.read m' (pixelAddr f px py + j) = (pixelBytes f m px py).getD j 0) hx hy
    (fun _ _ => rfl) ?_ ?_ ?_
  · exact fun px' py' m' hx' hy' hm a ha => (read_storePixelB_outside hx' hy' ha).trans (hm a ha)
  · intro m' hm
    rw [read_storePixelB_same f px py m' hj, pixelBytes_of_unchanged_outside hf hx hy hm]
  · exact fun px' py' m' hx' _ hne hm => (read_storePixelB_other hx hx' hne hj).trans hm

/-- Every offset in the output range is a byte of a pixel (R45). -/
theorem exists_pixel_of_lt {w h k : Nat} (hk : k < 4 * w * h) :
    ∃ px py j, px < w ∧ py < h ∧ j < 4 ∧ k = 4 * (py * w + px) + j := by
  have hpix : k / 4 < w * h := Nat.div_lt_of_lt_mul (by rwa [← Nat.mul_assoc])
  have hw : 0 < w := Nat.pos_of_mul_pos_right (by omega : 0 < w * h)
  refine ⟨k / 4 % w, k / 4 / w, k % 4, Nat.mod_lt _ hw, Nat.div_lt_of_lt_mul hpix, Nat.mod_lt _ (by omega), ?_⟩
  rw [Nat.mul_comm _ w, Nat.div_add_mod, Nat.div_add_mod]

/-! ### The frame of the registers -/

/-- The dimensions and strides of an accepted frame, read without sign (R24). -/
theorem frameOf_dims {s : State} (h : convertAccepts s) :
    (frameOf s).w = s.width.toNat ∧ (frameOf s).h = s.height.toNat ∧ (frameOf s).ys = s.yStride.toNat ∧
      (frameOf s).uvs = s.uvStride.toNat := by
  obtain ⟨hw, hh, hys, huvs, -⟩ := h
  simp [frameOf, toInt_of_nonneg _ hw.le, toInt_of_nonneg _ hh.le, toInt_of_nonneg _ hys, toInt_of_nonneg _ huvs]

/-- The samples of an accepted frame lie in their planes, at indices below the planes' lengths (R121, R122). -/
theorem frameOf_samples {s : State} (h : convertAccepts s) {px py : Nat} (hx : px < (frameOf s).w)
    (hy : py < (frameOf s).h) :
    (∃ i < s.yLen.toNat, lumaAddr (frameOf s) px py = s.yBase.toNat + i) ∧
      chromaIndex (frameOf s) px py < s.uLen.toNat ∧ chromaIndex (frameOf s) px py < s.vLen.toNat := by
  obtain ⟨hw, hh, hys, huvs⟩ := frameOf_dims h
  rw [hw] at hx
  rw [hh] at hy
  obtain ⟨iny, inu, inv⟩ := accepted_indices s h px py hx hy
  unfold lumaAddr chromaIndex
  rw [hys, huvs]
  exact ⟨⟨_, iny, Nat.add_assoc _ _ _⟩, inu, inv⟩

/-- A byte of a plane that the output does not meet is outside the output range. -/
theorem outsideOutput_of_not_meetsPlane {s : State} (h : convertAccepts s) {base len : Word} {i : Nat}
    (hm : ¬ meetsPlane s base len) (hi : i < len.toNat) : outsideOutput (frameOf s) (base.toNat + i) := by
  obtain ⟨hw, hh, -, -⟩ := frameOf_dims h
  have hsize : 4 * s.width.toInt * s.height.toInt = ((4 * s.width.toNat * s.height.toNat : Nat) : Int) := by
    rw [toInt_of_nonneg _ h.1.le, toInt_of_nonneg _ h.2.1.le]
    push_cast
    rfl
  unfold meetsPlane at hm
  rw [hsize] at hm
  unfold outsideOutput
  rw [hw, hh, show (frameOf s).dst = s.dstBase.toNat from rfl]
  omega

theorem frameOf_samplesOutside {s : State} (h : convertAccepts s) : samplesOutside (frameOf s) := by
  intro px py hx hy
  obtain ⟨-, -, -, -, -, -, -, -, -, ymeets, umeets, vmeets⟩ := id h
  obtain ⟨⟨i, hi, haddr⟩, inu, inv⟩ := frameOf_samples h hx hy
  rw [haddr]
  exact ⟨outsideOutput_of_not_meetsPlane h ymeets hi, outsideOutput_of_not_meetsPlane h umeets inu,
    outsideOutput_of_not_meetsPlane h vmeets inv⟩

/-- `DST_LEN` of an accepted frame does not wrap: the frame fits `DST_CAP` (check 8 of R122). -/
theorem toNat_ofNat_size {s : State} (h : convertAccepts s) :
    (BitVec.ofNat 32 (4 * (frameOf s).w * (frameOf s).h)).toNat = 4 * (frameOf s).w * (frameOf s).h := by
  obtain ⟨hw, hh, -, -, -, -, -, -, hcap, -⟩ := id h
  obtain ⟨ew, eh, -, -⟩ := frameOf_dims h
  rw [toInt_of_nonneg _ hw.le, toInt_of_nonneg _ hh.le] at hcap
  have := s.dstCap.isLt
  rw [BitVec.toNat_ofNat, ew, eh, Nat.mod_eq_of_lt (by push_cast [← Int.ofNat_lt]; omega)]

end Sys2Proof.Machine
end

section
/-! SUPPORT. What the outcome of each command depends on (10_state.md R30): two states, no error latched in either. -/

namespace Sys2Proof.Machine

/-- Taking a trap latches an error (R161, R166). -/
theorem raise_err_ne_zero (t : Trap) (s : State) : (raise t s).err ≠ 0 := by
  rw [raise_eq]
  cases t <;> simp [errCode]

/-- With no error latched the next state of a command is its operation's. -/
theorem eq_of_command_next {op : State → State} {s t : State} (hs : s.err = 0) (h : command op s = .next t) :
    t = op s := by
  rw [command_unlatched op s hs] at h
  exact (Host.Outcome.next.inj h).symm

theorem command_of_op_eq {op : State → State} {s u : State} (hs : s.err = 0) (h : op s = u) : command op s = .next u :=
  h ▸ command_unlatched op s hs

/-! ### The two cursors -/

/-- A cursor read depends on the cursor's registers and the bytes it reads (R45). -/
theorem cursorBytes_congr {n : Nat} {s s' : State} (hbase : s.curBase = s'.curBase) (hlen : s.curLen = s'.curLen)
    (hpos : s.curPos = s'.curPos) (hbytes : ∀ k, k < n → cursorByte s k = cursorByte s' k) :
    cursorBytes n s = cursorBytes n s' := by
  have hread : Memory.readBytes s.mem (cursorAddr s) n = Memory.readBytes s'.mem (cursorAddr s') n :=
    List.map_congr_left fun k hk => hbytes k (List.mem_range.mp hk)
  unfold cursorBytes
  rw [hbase, hlen, hpos, hread]

theorem extract_congr {l : Length} {o : ByteOrder} {s s' : State} (herr : s.err = s'.err) (hcause : s.cause = s'.cause)
    (hpos : s.curPos = s'.curPos) (hbytes : cursorBytes l.bytes s = cursorBytes l.bytes s') :
    (extract l o s).err = (extract l o s').err ∧ (extract l o s).cause = (extract l o s').cause ∧
      (extract l o s).curPos = (extract l o s').curPos ∧
      ((extract l o s).err = 0 → (extract l o s).result = (extract l o s').result) := by
  unfold extract
  rw [hbytes]
  cases cursorBytes l.bytes s' with
  | error t => exact ⟨rfl, rfl, hpos, fun h => absurd h (raise_err_ne_zero t s)⟩
  | ok bs => exact ⟨herr, hcause, congrArg (· + BitVec.ofNat 32 l.bytes) hpos, fun _ => rfl⟩

theorem unswapPixel_congr {s s' : State} (herr : s.err = s'.err) (hcause : s.cause = s'.cause)
    (hpos : s.curPos = s'.curPos) (hbytes : cursorBytes 4 s = cursorBytes 4 s') :
    (unswapPixel s).err = (unswapPixel s').err ∧ (unswapPixel s).cause = (unswapPixel s').cause ∧
      (unswapPixel s).curPos = (unswapPixel s').curPos ∧
      ((unswapPixel s).err = 0 → (unswapPixel s).pixel = (unswapPixel s').pixel) := by
  unfold unswapPixel
  rw [hbytes]
  cases cursorBytes 4 s' with
  | error t => exact ⟨rfl, rfl, hpos, fun h => absurd h (raise_err_ne_zero t s)⟩
  | ok bs => exact ⟨herr, hcause, congrArg (· + BitVec.ofNat 32 4) hpos, fun _ => rfl⟩

theorem operandBytes_congr {n : Nat} {s s' : State} (h : s.operand = s'.operand) :
    operandBytes n s = operandBytes n s' := by
  unfold operandBytes
  rw [h]

theorem swapPixel_congr {s s' : State} (herr : s.err = s'.err) (hcause : s.cause = s'.cause)
    (hpixel : s.pixel = s'.pixel) (halpha : s.alpha = s'.alpha) (hbase : s.outBase = s'.outBase)
    (hcap : s.outCap = s'.outCap) (hpos : s.outPos = s'.outPos) :
    (swapPixel s).err = (swapPixel s').err ∧ (swapPixel s).cause = (swapPixel s').cause ∧
      (swapPixel s).outPos = (swapPixel s').outPos ∧
      ((swapPixel s).err = 0 → ∀ k, k < 4 →
        Memory.read (swapPixel s).mem (outAddr s + k) = Memory.read (swapPixel s').mem (outAddr s + k)) := by
  have haddr : outAddr s' = outAddr s := by rw [outAddr, outAddr, hbase, hpos]
  have hbytes : swapBytes s' = swapBytes s := by rw [swapBytes, swapBytes, hpixel, halpha]
  unfold swapPixel
  rw [← hbase, ← hcap, ← hpos]
  split
  · exact ⟨rfl, rfl, hpos, fun h => absurd h (raise_err_ne_zero _ s)⟩
  split
  · exact ⟨rfl, rfl, hpos, fun h => absurd h (raise_err_ne_zero _ s)⟩
  refine ⟨herr, hcause, congrArg (· + BitVec.ofNat 32 4) hpos, fun _ k hk => ?_⟩
  change Memory.read (Memory.writeBytes s.mem (outAddr s) (swapBytes s)) _ =
    Memory.read (Memory.writeBytes s'.mem (outAddr s') (swapBytes s')) _
  have hlen : k < (swapBytes s).length := hk
  rw [haddr, hbytes, Memory.read_writeBytes_inside _ _ _ k hlen, Memory.read_writeBytes_inside _ _ _ k hlen]

/-! ### `CONVERT` -/

/-- The registers that the row of `CONVERT` reads agree (R30). -/
structure SameFrameRegisters (s s' : State) : Prop where
  yBase : s.yBase = s'.yBase
  yLen : s.yLen = s'.yLen
  uBase : s.uBase = s'.uBase
  uLen : s.uLen = s'.uLen
  vBase : s.vBase = s'.vBase
  vLen : s.vLen = s'.vLen
  width : s.width = s'.width
  height : s.height = s'.height
  yStride : s.yStride = s'.yStride
  uvStride : s.uvStride = s'.uvStride
  dstBase : s.dstBase = s'.dstBase
  dstCap : s.dstCap = s'.dstCap

theorem convertCheck_congr {s s' : State} (h : SameFrameRegisters s s') : convertCheck s = convertCheck s' := by
  unfold convertCheck
  rw [h.yBase, h.yLen, h.uBase, h.uLen, h.vBase, h.vLen, h.width, h.height, h.yStride, h.uvStride, h.dstBase, h.dstCap]

/-- Equal planes give every pixel of an accepted frame the same bytes. -/
theorem pixelBytes_of_samePlane {s s' : State} (h : convertAccepts s) (hy : samePlane s s' s.yBase s.yLen)
    (hu : samePlane s s' s.uBase s.uLen) (hv : samePlane s s' s.vBase s.vLen) {px py : Nat}
    (hx : px < (frameOf s).w) (hpy : py < (frameOf s).h) :
    pixelBytes (frameOf s) s.mem px py = pixelBytes (frameOf s) s'.mem px py := by
  obtain ⟨⟨i, hi, haddr⟩, inu, inv⟩ := frameOf_samples h hx hpy
  refine pixelBytes_congr ?_ (hu _ inu) (hv _ inv)
  unfold lumaAt
  rw [haddr]
  exact hy i hi

/-- Equal planes give the same bytes in the whole output range of an accepted frame. -/
theorem read_convertFrame_congr {s s' : State} (h : convertAccepts s) (hy : samePlane s s' s.yBase s.yLen)
    (hu : samePlane s s' s.uBase s.uLen) (hv : samePlane s s' s.vBase s.vLen) {k : Nat}
    (hk : k < 4 * (frameOf s).w * (frameOf s).h) :
    Memory.read (convertFrame storePixelB (frameOf s) s.mem) (s.dstBase.toNat + k) =
      Memory.read (convertFrame storePixelB (frameOf s) s'.mem) (s.dstBase.toNat + k) := by
  have hout := frameOf_samplesOutside h
  obtain ⟨px, py, j, hx, hpy, hj, rfl⟩ := exists_pixel_of_lt hk
  have haddr : s.dstBase.toNat + (4 * (py * (frameOf s).w + px) + j) = pixelAddr (frameOf s) px py + j :=
    (Nat.add_assoc _ _ _).symm
  rw [haddr, read_convertFrame_inside s.mem hout hx hpy hj, read_convertFrame_inside s'.mem hout hx hpy hj,
    pixelBytes_of_samePlane h hy hu hv hx hpy]

theorem convert_congr {s s' : State} (herr : s.err = s'.err) (hcause : s.cause = s'.cause)
    (hregs : SameFrameRegisters s s') (hy : samePlane s s' s.yBase s.yLen) (hu : samePlane s s' s.uBase s.uLen)
    (hv : samePlane s s' s.vBase s.vLen) :
    (convert storePixelB s).err = (convert storePixelB s').err ∧
      (convert storePixelB s).cause = (convert storePixelB s').cause ∧
      ((convert storePixelB s).err = 0 → (convert storePixelB s).dstLen = (convert storePixelB s').dstLen ∧
        ∀ k, k < (convert storePixelB s).dstLen.toNat →
          Memory.read (convert storePixelB s).mem (s.dstBase.toNat + k) =
            Memory.read (convert storePixelB s').mem (s.dstBase.toNat + k)) := by
  unfold convert
  rw [← convertCheck_congr hregs]
  cases hcheck : convertCheck s with
  | trap c => exact ⟨rfl, rfl, fun h => absurd h (raise_err_ne_zero _ s)⟩
  | empty => exact ⟨herr, hcause, fun _ => ⟨rfl, fun k hk => absurd hk (Nat.not_lt_zero k)⟩⟩
  | frame f =>
    obtain ⟨rfl, haccepts⟩ := convertCheck_frame s f hcheck
    refine ⟨herr, hcause, fun _ => ⟨rfl, fun k hk => ?_⟩⟩
    rw [State.setDstLen_dstLen, toNat_ofNat_size haccepts] at hk
    exact read_convertFrame_congr haccepts hy hu hv hk

end Sys2Proof.Machine
end

section
/-! SUPPORT. The machine with every register at reset (10_state.md R29): what the host reads, what the commands do. -/

namespace Sys2Proof.Machine

theorem readReg_reset (r : Reg) : readReg r State.reset = 0 := by
  cases r <;> decide

/-- `M` and the model's own fields do not enter a register's reading. -/
theorem readReg_of_registersReset {s : State} (h : registersReset s) (r : Reg) : readReg r s = 0 := by
  unfold registersReset at h
  rw [h, ← readReg_reset r]
  cases r <;> rfl

/-- Every offset of a block at reset reads 0 (R29). -/
theorem readOffset_of_registersReset {s : State} (h : registersReset s) (off : BitVec 8) : readOffset off s = 0 := by
  unfold readOffset
  cases regAt off with
  | none => rfl
  | some r => exact readReg_of_registersReset h r

theorem registersReset_resetEvent (s : State) : registersReset (resetEvent s) := rfl

/-- The registers that the checks of the commands look at. -/
theorem fields_of_registersReset {s : State} (h : registersReset s) :
    s.err = 0 ∧ s.curBase = 0 ∧ s.curLen = 0 ∧ s.curPos = 0 ∧ s.outBase = 0 ∧ s.outCap = 0 ∧ s.outPos = 0 ∧
      s.width = 0 ∧ s.height = 0 ∧ s.dstLen = 0 := by
  unfold registersReset at h
  rw [h]
  exact ⟨rfl, rfl, rfl, rfl, rfl, rfl, rfl, rfl, rfl, rfl⟩

theorem length_bytes_pos (l : Length) : 0 < l.bytes := by
  cases l <;> decide

/-- With the cursor at reset no byte remains (R29, R81). -/
theorem extract_of_registersReset {s : State} (h : registersReset s) (l : Length) (o : ByteOrder) :
    extract l o s = trapped 1 0 s := by
  obtain ⟨-, hbase, hlen, hpos, -⟩ := fields_of_registersReset h
  have hn := length_bytes_pos l
  obtain ⟨hwrap, -⟩ | ⟨-, -, htrap⟩ | ⟨-, hfits, -⟩ := extract_cases l o s
  · simp [hbase, hlen] at hwrap
  · exact htrap
  · have : 0 + l.bytes ≤ 0 := by simpa [hlen, hpos] using hfits
    omega

theorem unswapPixel_of_registersReset {s : State} (h : registersReset s) : unswapPixel s = trapped 1 0 s := by
  obtain ⟨-, hbase, hlen, hpos, -⟩ := fields_of_registersReset h
  obtain ⟨hwrap, -⟩ | ⟨-, -, htrap⟩ | ⟨-, hfits, -⟩ := unswapPixel_cases s
  · simp [hbase, hlen] at hwrap
  · exact htrap
  · simp [hlen, hpos] at hfits

/-- With the output at reset there is no capacity (R29, R111). -/
theorem swapPixel_of_registersReset {s : State} (h : registersReset s) : swapPixel s = trapped 2 10 s := by
  obtain ⟨-, -, -, -, hbase, hcap, hpos, -⟩ := fields_of_registersReset h
  obtain ⟨hwrap, -⟩ | ⟨-, -, htrap⟩ | ⟨-, hfits, -⟩ := swapPixel_cases s
  · simp [hbase, hcap] at hwrap
  · exact htrap
  · simp [hcap, hpos] at hfits

/-- An empty frame leaves `DST_LEN` at the 0 it holds (R29, R123). -/
theorem convert_of_registersReset {s : State} (h : registersReset s) : convert storePixelB s = s := by
  obtain ⟨-, -, -, -, -, -, -, hw, hh, hdst⟩ := fields_of_registersReset h
  have hempty : convertCheck s = .empty := by
    simpa [hw, hh] using convertCheck_cases s
  unfold convert
  rw [hempty]
  change { s with dstLen := 0 } = s
  rw [← hdst]

end Sys2Proof.Machine
end

section
/-! SUPPORT. The rows of the access matrix settled (10_state.md R29, R30). -/

namespace Sys2Proof.Proofs

open Sys2Proof Sys2Proof.Machine

/-- Settles O13, by the rows of the access matrix: each family's frame leaves every clause but its own row's trivial. -/
theorem commandsWriteOnlyTheirRegisters : Obligations.CommandsWriteOnlyTheirRegisters := by
  unfold Obligations.CommandsWriteOnlyTheirRegisters
  intro i s t h
  obtain ⟨n, o, hi⟩ | ⟨n, o, hi⟩ | rfl | rfl | rfl | rfl | hi | rfl := instr_families i
  · obtain ⟨e, c, p, r, rfl⟩ := exec_ext_frame hi h
    exact ⟨rfl, fun hn _ => absurd rfl (hn _ hi), fun hn _ => absurd rfl (hn _ hi), fun _ _ => rfl, fun _ => rfl,
      fun _ => rfl, fun _ _ => rfl, fun _ _ _ => rfl⟩
  · obtain ⟨r, rfl⟩ := exec_compose_frame hi h
    exact ⟨rfl, fun _ _ => rfl, fun _ hn => absurd rfl (hn _ hi), fun _ _ => rfl, fun _ => rfl, fun _ => rfl,
      fun _ _ => rfl, fun _ _ _ => rfl⟩
  · obtain ⟨a, rfl⟩ := exec_sumclr_frame h
    exact ⟨rfl, fun _ _ => rfl, fun _ _ => rfl, fun hn _ => absurd rfl hn, fun _ => rfl, fun _ => rfl, fun _ _ => rfl,
      fun _ _ _ => rfl⟩
  · obtain ⟨a, rfl⟩ := exec_sumadd_frame h
    exact ⟨rfl, fun _ _ => rfl, fun _ _ => rfl, fun _ hn => absurd rfl hn, fun _ => rfl, fun _ => rfl, fun _ _ => rfl,
      fun _ _ _ => rfl⟩
  · obtain ⟨e, c, p, m, rfl⟩ := exec_swap_frame h
    exact ⟨rfl, fun _ _ => rfl, fun _ _ => rfl, fun _ _ => rfl, fun _ => rfl, fun hn => absurd rfl hn, fun _ _ => rfl,
      fun hn _ _ => absurd rfl hn⟩
  · obtain ⟨e, c, p, x, rfl⟩ := exec_unswap_frame h
    exact ⟨rfl, fun _ hn => absurd rfl hn, fun _ _ => rfl, fun _ _ => rfl, fun hn => absurd rfl hn, fun _ => rfl,
      fun _ _ => rfl, fun _ _ _ => rfl⟩
  · obtain ⟨e, c, d, m, rfl⟩ := exec_convert_frame hi h
    exact ⟨rfl, fun _ _ => rfl, fun _ _ => rfl, fun _ _ => rfl, fun _ => rfl, fun _ => rfl,
      fun hw hb => (hi.elim hw hb).elim, fun _ hw hb => (hi.elim hw hb).elim⟩
  · obtain rfl := exec_clrerr_frame h
    exact ⟨rfl, fun _ _ => rfl, fun _ _ => rfl, fun _ _ => rfl, fun _ => rfl, fun _ => rfl, fun _ _ => rfl,
      fun _ _ _ => rfl⟩

/-- Settles O14, by the rows of the access matrix: with no error latched each command is its operation, and the
operations agree where what they read agrees. -/
theorem commandsDependOnlyOnTheirRegisters : Obligations.CommandsDependOnlyOnTheirRegisters := by
  unfold Obligations.CommandsDependOnlyOnTheirRegisters
  intro s s' t t' hs hs' hcause
  have herr : s.err = s'.err := hs.trans hs'.symm
  refine ⟨?ext, ?compose, ?sumclr, ?sumadd, ?swap, ?unswap, ?convert⟩
  case ext =>
    intro i n o hi hbase hlen hpos hbytes h h'
    obtain ⟨l, rfl, hexec⟩ := exec_of_mem_extRows hi
    obtain rfl := eq_of_command_next hs (hexec s ▸ h)
    obtain rfl := eq_of_command_next hs' (hexec s' ▸ h')
    exact extract_congr herr hcause hpos (cursorBytes_congr hbase hlen hpos hbytes)
  case compose =>
    intro i n o hi hoperand h h'
    obtain ⟨l, rfl, hexec⟩ := exec_of_mem_composeRows hi
    obtain rfl := eq_of_command_next hs (hexec s ▸ h)
    obtain rfl := eq_of_command_next hs' (hexec s' ▸ h')
    rw [composeOperand_eq, composeOperand_eq, operandBytes_congr hoperand]
    exact ⟨herr, hcause, rfl⟩
  case sumclr =>
    intro h h'
    obtain rfl := eq_of_command_next hs h
    obtain rfl := eq_of_command_next hs' h'
    exact ⟨herr, hcause, rfl⟩
  case sumadd =>
    intro hoperand hacc h h'
    obtain rfl := eq_of_command_next hs h
    obtain rfl := eq_of_command_next hs' h'
    exact ⟨herr, hcause, congrArg₂ (· + ·) hacc hoperand⟩
  case swap =>
    intro hpixel halpha hbase hcap hpos h h'
    obtain rfl := eq_of_command_next hs h
    obtain rfl := eq_of_command_next hs' h'
    exact swapPixel_congr herr hcause hpixel halpha hbase hcap hpos
  case unswap =>
    intro hbase hlen hpos hbytes h h'
    obtain rfl := eq_of_command_next hs h
    obtain rfl := eq_of_command_next hs' h'
    exact unswapPixel_congr herr hcause hpos (cursorBytes_congr hbase hlen hpos hbytes)
  case convert =>
    intro i hi yb yl ub ul vb vl w hh ys uvs db dc py pu pv h h'
    obtain rfl := eq_of_command_next hs (exec_convert hi s ▸ h)
    obtain rfl := eq_of_command_next hs' (exec_convert hi s' ▸ h')
    exact convert_congr herr hcause ⟨yb, yl, ub, ul, vb, vl, w, hh, ys, uvs, db, dc⟩ py pu pv

/-- Settles O15: the memory after reset lists nothing, and no error is latched. -/
theorem invariantHoldsAfterReset : Obligations.InvariantHoldsAfterReset := by
  unfold Obligations.InvariantHoldsAfterReset
  exact ⟨Memory.wf_nil, .inl ⟨rfl, rfl⟩⟩

/-- Settles O44: the reset event leaves a block at reset, and with all registers 0 the cursors are exhausted and the
frame is empty. -/
theorem resetZeroesRegisters : Obligations.ResetZeroesRegisters := by
  unfold Obligations.ResetZeroesRegisters
  refine ⟨readOffset_of_registersReset rfl, fun s rest hq => ?event, fun s hr => ?commands⟩
  case event =>
    exact ⟨_, step_cons s .reset rest hq, rfl, rfl, rfl, registersReset_resetEvent _,
      readOffset_of_registersReset (registersReset_resetEvent _)⟩
  case commands =>
    obtain ⟨hs, -⟩ := fields_of_registersReset hr
    refine ⟨fun i n o hi => ?_, command_of_op_eq hs (unswapPixel_of_registersReset hr),
      command_of_op_eq hs (swapPixel_of_registersReset hr), ?_, ?_⟩
    · obtain ⟨l, -, hexec⟩ := exec_of_mem_extRows hi
      rw [hexec]
      exact command_of_op_eq hs (extract_of_registersReset hr l o)
    · rw [exec_convert (.inl rfl)]
      exact command_of_op_eq hs (convert_of_registersReset hr)
    · rw [exec_convert (.inr rfl)]
      exact command_of_op_eq hs (convert_of_registersReset hr)

end Sys2Proof.Proofs
end

section
/-! SUPPORT. The canonical form of `M` (20_memory.md R40) and the legal values of `STATUS` (10_state.md R19), kept by
every command and every step of the host. -/

namespace Sys2Proof.Machine

/-! ### What a command writes lies inside `M` (R48) -/

theorem memSize_eq : Config.memSize = 2 ^ 32 := rfl

/-- The pixel of an accepted `SWAP` ends inside `M`. -/
theorem outAddr_add_four_le {s : State} (h : outHasPixel s) : outAddr s + 4 ≤ Config.memSize := by
  obtain ⟨hregion, hfits⟩ := h
  rw [memSize_eq, outAddr]
  omega

/-- The output range of an accepted `CONVERT` ends inside `M`: it fits `DST_CAP`, and the destination does not wrap. -/
theorem frameOf_output_le {s : State} (h : convertAccepts s) :
    (frameOf s).dst + 4 * (frameOf s).w * (frameOf s).h ≤ Config.memSize := by
  have hdst : (frameOf s).dst = s.dstBase.toNat := rfl
  have hsize := toNat_ofNat_size h
  obtain ⟨hw, hh, -, -, hwraps, -, -, -, hcap, -⟩ := id h
  obtain ⟨ew, eh, -, -⟩ := frameOf_dims h
  rw [toInt_of_nonneg _ hw.le, toInt_of_nonneg _ hh.le] at hcap
  rw [memSize_eq, hdst, ew, eh]
  have hfits : 4 * s.width.toNat * s.height.toNat ≤ s.dstCap.toNat := by exact_mod_cast hcap
  omega

/-- The bytes that a reset inside a command may change lie inside `M` (R191). -/
theorem writeRange_le (w : Word) (s : State) : (writeRange w s).1 + (writeRange w s).2 ≤ Config.memSize := by
  obtain ⟨⟨-, -, hswap⟩, hrange⟩ | ⟨⟨-, -, haccepts⟩, hrange⟩ | ⟨-, -, hrange⟩ := writeRange_cases w s <;> rw [hrange]
  · exact outAddr_add_four_le hswap
  · obtain ⟨ew, eh, -, -⟩ := frameOf_dims haccepts
    rw [← ew, ← eh]
    exact frameOf_output_le haccepts
  · exact Nat.zero_le _

/-- Storing a frame that lies inside `M` keeps the canonical form (R129). -/
theorem wf_convertFrame {f : Frame} {m : Memory} (hm : Memory.wf m = true)
    (hf : f.dst + 4 * f.w * f.h ≤ Config.memSize) : Memory.wf (convertFrame storePixelB f m) = true :=
  convertFrame_keeps (fun m => Memory.wf m = true) storePixelB f m hm fun _ _ m hx hy hm =>
    Memory.wf_writeBytes _ m _ hm ((pixelAddr_add_four_le hx hy).trans hf)

theorem wf_fillFree {m : Memory} {a n : Nat} (c : Nat) (hm : Memory.wf m = true) (h : a + n ≤ Config.memSize) :
    Memory.wf (fillFree m a n c) = true :=
  Memory.wf_writeBytes _ m a hm (by simpa using h)

/-! ### Commands -/

/-- Every trap leaves a pair of codes that R161 and R162 list. -/
theorem legalStatus_raise (t : Trap) (s : State) : legalStatus (raise t s) := by
  cases t with
  | outOfData => exact .inr (.inl ⟨rfl, rfl⟩)
  | contractViolation c =>
    have hcode : 1 ≤ (causeNumber c).toNat ∧ (causeNumber c).toNat ≤ 10 := by cases c <;> decide
    exact .inr (.inr ⟨rfl, hcode⟩)

theorem inv_raise (t : Trap) {s : State} (h : Inv s) : Inv (raise t s) := ⟨h.1, legalStatus_raise t s⟩

theorem inv_extract (l : Length) (o : ByteOrder) {s : State} (h : Inv s) : Inv (extract l o s) := by
  obtain ⟨-, e⟩ | ⟨-, -, e⟩ | ⟨-, -, e⟩ := extract_cases l o s <;> rw [e]
  · exact inv_raise _ h
  · exact inv_raise _ h
  · exact h

theorem inv_unswapPixel {s : State} (h : Inv s) : Inv (unswapPixel s) := by
  obtain ⟨-, e⟩ | ⟨-, -, e⟩ | ⟨-, -, e⟩ := unswapPixel_cases s <;> rw [e]
  · exact inv_raise _ h
  · exact inv_raise _ h
  · exact h

theorem inv_swapPixel {s : State} (h : Inv s) : Inv (swapPixel s) := by
  obtain ⟨-, e⟩ | ⟨-, -, e⟩ | ⟨hregion, hfits, e⟩ := swapPixel_cases s <;> rw [e]
  · exact inv_raise _ h
  · exact inv_raise _ h
  · exact ⟨Memory.wf_writeBytes _ _ _ h.1 (outAddr_add_four_le ⟨hregion, hfits⟩), h.2⟩

theorem inv_convert {s : State} (h : Inv s) : Inv (convert storePixelB s) := by
  obtain ⟨c, -, e⟩ | ⟨-, e⟩ | ⟨f, hf, e⟩ := convert_cases storePixelB s <;> rw [e]
  · exact inv_raise _ h
  · exact h
  · obtain ⟨rfl, haccepts⟩ := convertCheck_frame s f hf
    exact ⟨wf_convertFrame h.1 (frameOf_output_le haccepts), h.2⟩

/-- The front end keeps what the operation keeps (R150). -/
theorem command_keeps {P : State → Prop} {op : State → State} {s t : State} (h : P s) (hop : P (op s))
    (ht : command op s = .next t) : P t := by
  obtain ⟨-, rfl⟩ | ⟨-, rfl⟩ := command_next op s t ht
  · exact hop
  · exact h

theorem inv_exec {i : Instr} {s t : State} (h : Inv s) (ht : exec i s = .next t) : Inv t := by
  obtain ⟨n, o, hi⟩ | ⟨n, o, hi⟩ | rfl | rfl | rfl | rfl | hi | rfl := instr_families i
  · obtain ⟨l, -, hexec⟩ := exec_of_mem_extRows hi
    exact command_keeps h (inv_extract l o h) (hexec s ▸ ht)
  · obtain ⟨r, rfl⟩ := exec_compose_frame hi ht
    exact h
  · obtain ⟨a, rfl⟩ := exec_sumclr_frame ht
    exact h
  · obtain ⟨a, rfl⟩ := exec_sumadd_frame ht
    exact h
  · exact command_keeps h (inv_swapPixel h) ht
  · exact command_keeps h (inv_unswapPixel h) ht
  · exact command_keeps h (inv_convert h) (exec_convert hi s ▸ ht)
  · obtain rfl := exec_clrerr_frame ht
    exact ⟨h.1, .inl ⟨rfl, rfl⟩⟩

/-! ### Steps of the host -/

theorem inv_commandWrite {w : Word} {s t : State} (h : Inv s) (ht : commandWrite w s = .next t) : Inv t := by
  by_cases hlegal : ∃ i, decode w = .ok i
  · obtain ⟨i, hi⟩ := hlegal
    exact inv_exec h (commandWrite_legal w i s hi ▸ ht)
  · rw [commandWrite_illegal w s (not_exists.mp hlegal)] at ht
    exact command_keeps h (inv_raise _ h) ht

/-- No register that the host may write is `STATUS` (R11, R151). -/
theorem inv_writeOffset (off : BitVec 8) (v : Word) {s : State} (h : Inv s) : Inv (writeOffset off v s) := by
  unfold writeOffset
  cases regAt off with
  | none => exact h
  | some r => cases r <;> exact h

theorem inv_resetEvent {s : State} (h : Memory.wf s.mem = true) : Inv (resetEvent s) := ⟨h, .inl ⟨rfl, rfl⟩⟩

theorem inv_resetInside (w : Word) {s : State} (h : Inv s) : Inv (resetInside w s) :=
  inv_resetEvent (wf_fillFree s.freeCount h.1 (writeRange_le w s))

theorem inv_hostStep {a : HostStep} {s t : State} (h : Inv s) (ht : hostStep a s = .next t) : Inv t := by
  obtain ⟨w, -, hw⟩ | ⟨off, v, -, -, -, rfl⟩ | ⟨off, -, -, rfl⟩ | ⟨b, bs, -, hb, rfl⟩ | ⟨b, n, -, -, rfl⟩ | ⟨-, rfl⟩ |
    ⟨w, -, rfl⟩ := hostStep_next a s t ht
  · exact inv_commandWrite h hw
  · exact inv_writeOffset off v h
  · exact h
  · exact ⟨Memory.wf_writeBytes bs s.mem b h.1 hb, h.2⟩
  · exact h
  · exact inv_resetEvent h.1
  · exact inv_resetInside w h

end Sys2Proof.Machine
end

section
/-! SUPPORT. The host's accesses to `M` (20_memory.md R57): inside the 2^32 bytes, and past them (log entry 6). -/

namespace Sys2Proof.Machine

theorem hostStep_writeMem_inside {a : Nat} {bs : List Byte} (s : State) (h : a + bs.length ≤ 2 ^ 32) :
    hostStep (.writeMem a bs) s = .next { s with mem := Memory.writeBytes s.mem a bs } := if_pos h

theorem hostStep_readMem_inside {a n : Nat} (s : State) (h : a + n ≤ 2 ^ 32) :
    hostStep (.readMem a n) s = .next { s with replies := .bytes (Memory.readBytes s.mem a n) :: s.replies } := if_pos h

theorem hostStep_writeMem_outside {a : Nat} {bs : List Byte} (s : State) (h : 2 ^ 32 < a + bs.length) :
    hostStep (.writeMem a bs) s = .fault (.noSuchAddress a) := if_neg (Nat.not_le.mpr h)

theorem hostStep_readMem_outside {a n : Nat} (s : State) (h : 2 ^ 32 < a + n) :
    hostStep (.readMem a n) s = .fault (.noSuchAddress a) := if_neg (Nat.not_le.mpr h)

end Sys2Proof.Machine
end

section
/-! SUPPORT. The statements about `M` settled (20_memory.md R40, R56, R57), and the step invariant. -/

namespace Sys2Proof.Proofs

open Sys2Proof Sys2Proof.Machine

/-- Settles O16: a step is idle or the host's oldest access, whose removal from the queue the invariant does not see. -/
theorem stepKeepsInvariant : Obligations.StepKeepsInvariant := by
  unfold Obligations.StepKeepsInvariant
  intro s t h ht
  cases hq : s.hostQueue with
  | nil =>
    rw [step_idle s hq] at ht
    exact Host.Outcome.next.inj ht ▸ h
  | cons a rest =>
    rw [step_cons s a rest hq] at ht
    exact inv_hostStep (s := { s with hostQueue := rest }) h ht

/-- Settles O37: only an accepted frame writes memory, and check 9 of R122 keeps its output range off the planes. -/
theorem convertKeepsPlanes : Obligations.ConvertKeepsPlanes := by
  unfold Obligations.ConvertKeepsPlanes
  intro i s t hi ht base len k hplane hk
  refine command_keeps (P := fun t => Memory.read t.mem (base.toNat + k) = Memory.read s.mem (base.toNat + k)) rfl ?_
    (exec_convert hi s ▸ ht)
  obtain ⟨c, -, e⟩ | ⟨-, e⟩ | ⟨f, hf, e⟩ := convert_cases storePixelB s
  · rw [e, raise_eq]
  · rw [e]
  · rw [e]
    obtain ⟨rfl, haccepts⟩ := convertCheck_frame s f hf
    have hmeets : ¬ meetsPlane s base len := by
      obtain ⟨-, -, -, -, -, -, -, -, -, ymeets, umeets, vmeets⟩ := haccepts
      obtain ⟨rfl, rfl⟩ | ⟨rfl, rfl⟩ | ⟨rfl, rfl⟩ := by simpa only [Prod.mk.injEq] using hplane
      exacts [ymeets, umeets, vmeets]
    exact read_convertFrame_outside s.mem (outsideOutput_of_not_meetsPlane haccepts hmeets hk)

/-- Settles O42: the laws of byte writes and reads, at the host's access taken off its queue. -/
theorem hostMemoryAccess : Obligations.HostMemoryAccess := by
  unfold Obligations.HostMemoryAccess
  refine ⟨fun s a bs rest hq hle => ?write, fun s a n rest hq hle => ?read⟩
  case write =>
    exact ⟨_, (step_cons s _ rest hq).trans (hostStep_writeMem_inside _ hle), rfl,
      Memory.read_writeBytes_inside bs s.mem a, Memory.read_writeBytes_outside bs s.mem a⟩
  case read =>
    exact ⟨_, Memory.length_readBytes s.mem a n, Memory.readBytes_getElem s.mem a n,
      (step_cons s _ rest hq).trans (hostStep_readMem_inside _ hle)⟩

/-- Settles O43: the access fails the model's bounds check, whatever the state holds. -/
theorem hostAccessOutsideMemoryFaults : Obligations.HostAccessOutsideMemoryFaults := by
  unfold Obligations.HostAccessOutsideMemoryFaults
  exact ⟨fun s _ _ rest hq hout => (step_cons s _ rest hq).trans (hostStep_writeMem_outside _ hout),
    fun s _ _ rest hq hout => (step_cons s _ rest hq).trans (hostStep_readMem_outside _ hout)⟩

end Sys2Proof.Proofs
end

section
/-! SUPPORT. The command word (30_encoding.md): its fields (R61), the words the decoder accepts (R63), and the rows of
the opcode map they select (R62). -/

namespace Sys2Proof

/-! ### The fields of a word (R61) -/

theorem toNat_opField (w : Word) : (opField w).toNat = w.toNat % 16 := by
  simp [opField]

theorem toNat_ordField (w : Word) : (ordField w).toNat = w.toNat / 16 % 2 := by
  simp [ordField, Nat.shiftRight_eq_div_pow]

theorem toNat_lenField (w : Word) : (lenField w).toNat = w.toNat / 32 % 4 := by
  simp [lenField, Nat.shiftRight_eq_div_pow]

theorem toNat_formField (w : Word) : (formField w).toNat = w.toNat / 128 % 2 := by
  simp [formField, Nat.shiftRight_eq_div_pow]

theorem toNat_rsvField (w : Word) : (rsvField w).toNat = w.toNat / 256 := by
  rw [rsvField, BitVec.extractLsb'_toNat, Nat.shiftRight_eq_div_pow]
  omega

/-- A word whose reserved bits are 0 is packed from its other fields. -/
theorem pack_fields {w : Word} (h : rsvField w = 0#24) :
    pack (opField w) (ordField w) (lenField w) (formField w) = w := by
  have join (start len start' len' : Nat) (hs : start' = start + len) :
      w.extractLsb' start' len' ++ w.extractLsb' start len = w.extractLsb' start (len' + len) :=
    BitVec.extractLsb'_append_extractLsb'_eq_extractLsb' hs
  unfold pack
  rw [← h]
  unfold rsvField formField lenField ordField opField
  rw [join 7 1 8 24 rfl, join 5 2 7 25 rfl, join 4 1 5 27 rfl, join 0 4 4 28 rfl, BitVec.extractLsb'_eq_self]

/-! ### What the decoder accepts (R63) -/

theorem needForm0_eq_ok_iff {w : Word} {i j : Instr} : needForm0 w i = .ok j ↔ formField w = 0#1 ∧ j = i := by
  unfold needForm0
  split <;> simp [*, eq_comm (a := i)]

theorem needOrdLen0_eq_ok_iff {w : Word} {r : Except DecodeError Instr} {j : Instr} :
    needOrdLen0 w r = .ok j ↔ ordField w = 0#1 ∧ lenField w = 0#2 ∧ r = .ok j := by
  unfold needOrdLen0
  split <;> simp_all

/-- The rows of R62 whose `ORD` and `LEN` must be 0: `OP`, `FORM`, the command. -/
def plainRows : List (Nat × BitVec 1 × Instr) :=
  [(3, 0#1, .sumclr), (4, 0#1, .sumadd), (5, 0#1, .swap), (6, 0#1, .unswap), (7, 0#1, .convertW), (7, 1#1, .convertB),
   (8, 0#1, .clrerr)]

/-- The decoder by the fields: the rows of `EXT`, those of `COMPOSE`, and those with neither length nor order. -/
theorem decode_eq_ok_iff {w : Word} {i : Instr} :
    decode w = .ok i ↔ rsvField w = 0#24 ∧
      (((opField w).toNat = 1 ∧ formField w = 0#1 ∧ i = extOf (lenField w) (ordField w)) ∨
        ((opField w).toNat = 2 ∧ formField w = 0#1 ∧ i = composeOf (lenField w) (ordField w)) ∨
        (ordField w = 0#1 ∧ lenField w = 0#2 ∧ ((opField w).toNat, formField w, i) ∈ plainRows)) := by
  unfold decode
  by_cases hrsv : rsvField w = 0#24
  · rw [if_neg (not_not_intro hrsv)]
    split
    case h_7 hop =>
      obtain hform | hform := BitVec.eq_zero_or_eq_one (formField w) <;>
        simp [needOrdLen0_eq_ok_iff, plainRows, hrsv, hop, hform, eq_comm (a := i)]
    all_goals simp_all [needForm0_eq_ok_iff, needOrdLen0_eq_ok_iff, plainRows]
  · simp [hrsv]

/-! ### The encoder (R62) -/

theorem encode_extOf (len : BitVec 2) (ord : BitVec 1) : encode (extOf len ord) = pack 1#4 ord len 0#1 := by
  revert len ord
  decide

theorem encode_composeOf (len : BitVec 2) (ord : BitVec 1) : encode (composeOf len ord) = pack 2#4 ord len 0#1 := by
  revert len ord
  decide

theorem encode_of_mem_plainRows {op : Nat} {form : BitVec 1} {i : Instr} (h : (op, form, i) ∈ plainRows) :
    encode i = pack (BitVec.ofNat 4 op) 0#1 0#2 form := by
  have rows : ∀ r ∈ plainRows, encode r.2.2 = pack (BitVec.ofNat 4 r.1) 0#1 0#2 r.2.1 := by decide
  exact rows _ h

theorem instr_wf (i : Instr) : i.wf = true := by
  cases i <;> rfl

/-- Every command's word decodes to the command. -/
theorem decode_encode (i : Instr) : decode (encode i) = .ok i := by
  cases i with
  | extB o | composeB o => cases o <;> rfl
  | extHBe | extHLe | extWBe | extWLe | extDBe | extDLe => rfl
  | composeHBe | composeHLe | composeWBe | composeWLe | composeDBe | composeDLe => rfl
  | sumclr | sumadd | swap | unswap | convertW | convertB | clrerr => rfl

/-- A word that decodes to a command is the command's word: the fields the decoder read are all of its bits. -/
theorem encode_of_decode {w : Word} {i : Instr} (h : decode w = .ok i) : encode i = w := by
  obtain ⟨hrsv, hfields⟩ := decode_eq_ok_iff.mp h
  have hop : BitVec.ofNat 4 (opField w).toNat = opField w := BitVec.ofNat_toNat ..
  rw [← pack_fields hrsv]
  obtain ⟨op, form, rfl⟩ | ⟨op, form, rfl⟩ | ⟨ord, len, row⟩ := hfields
  · rw [encode_extOf, form, ← hop, op]
  · rw [encode_composeOf, form, ← hop, op]
  · rw [encode_of_mem_plainRows row, ord, len, hop]

/-- The decoder as the inverse of the encoder. -/
theorem decode_eq_ok_iff_encode_eq {w : Word} {i : Instr} : decode w = .ok i ↔ encode i = w :=
  ⟨encode_of_decode, fun h => h ▸ decode_encode i⟩

/-! ### The legal words (R67) -/

/-- The commands with both values of the don't-care `ORD` of the `.B` rows, in the order of R62. -/
def allCommands : List Instr :=
  [.extB .be, .extB .le, .extHBe, .extHLe, .extWBe, .extWLe, .extDBe, .extDLe,
   .composeB .be, .composeB .le, .composeHBe, .composeHLe, .composeWBe, .composeWLe, .composeDBe, .composeDLe,
   .sumclr, .sumadd, .swap, .unswap, .convertW, .convertB, .clrerr]

theorem mem_allCommands (i : Instr) : i ∈ allCommands := by
  cases i with
  | extB o | composeB o => cases o <;> decide
  | extHBe | extHLe | extWBe | extWLe | extDBe | extDLe => decide
  | composeHBe | composeHLe | composeWBe | composeWLe | composeDBe | composeDLe => decide
  | sumclr | sumadd | swap | unswap | convertW | convertB | clrerr => decide

/-- A word is legal iff it is the word of one of the 23 commands. -/
theorem legal_iff_mem_words (w : Word) :
    (∃ i, decode w = .ok i) ↔ w.toNat ∈ allCommands.map (fun i => (encode i).toNat) := by
  simp only [decode_eq_ok_iff_encode_eq, List.mem_map, mem_allCommands, true_and, BitVec.toNat_inj]

theorem exists_mem_plainRows_iff (op : Nat) (form : BitVec 1) :
    (∃ i, (op, form, i) ∈ plainRows) ↔ 3 ≤ op ∧ op ≤ 8 ∧ (form = 0#1 ∨ op = 7) := by
  obtain rfl | rfl := BitVec.eq_zero_or_eq_one form <;> simp [plainRows, exists_or] <;> omega

/-- A word is legal iff its reserved bits are 0 and its `OP` is one that allows its `FORM`, `ORD` and `LEN`. -/
theorem legal_iff_fields (w : Word) :
    (∃ i, decode w = .ok i) ↔ rsvField w = 0#24 ∧
      (((opField w).toNat = 1 ∧ formField w = 0#1) ∨ ((opField w).toNat = 2 ∧ formField w = 0#1) ∨
        (ordField w = 0#1 ∧ lenField w = 0#2 ∧
          3 ≤ (opField w).toNat ∧ (opField w).toNat ≤ 8 ∧ (formField w = 0#1 ∨ (opField w).toNat = 7))) := by
  simp only [decode_eq_ok_iff, exists_and_left, exists_or, exists_eq, and_true, exists_mem_plainRows_iff]

/-- R67 on the number of the word: the negation of the fields' conditions. -/
theorem illegal_iff (w : Word) :
    (∀ i, decode w ≠ .ok i) ↔
      (w.toNat / 256 ≠ 0 ∨ w.toNat % 16 = 0 ∨ 9 ≤ w.toNat % 16 ∨ (w.toNat / 128 % 2 = 1 ∧ w.toNat % 16 ≠ 7) ∨
        (w.toNat / 16 % 8 ≠ 0 ∧ w.toNat % 16 ≠ 1 ∧ w.toNat % 16 ≠ 2)) := by
  have legal := legal_iff_fields w
  simp only [← BitVec.toNat_inj, toNat_opField, toNat_ordField, toNat_lenField, toNat_formField, toNat_rsvField,
    BitVec.toNat_ofNat] at legal
  simp only [ne_eq, ← not_exists, legal]
  omega

/-! ### The rows of the opcode map (R62) -/

theorem selects_iff {r : OpcodeRow} {w : Word} : r.selects w = true ↔ w &&& r.mask = r.matchBits := beq_iff_eq

/-- A word that selects a row is the row's match value with the word's own bits where the mask is 0. -/
theorem eq_of_selects {r : OpcodeRow} {w : Word} (h : r.selects w = true) :
    w = r.matchBits ||| (w &&& ~~~r.mask) := by
  rw [← selects_iff.mp h]
  ext k hk
  simp only [BitVec.getElem_or, BitVec.getElem_and, BitVec.getElem_not]
  cases w[k] <;> cases r.mask[k] <;> rfl

/-- The mask of a row leaves at most one bit open, that of `ORD`. -/
theorem openBits_of_mem_opcodeTable {r : OpcodeRow} (h : r ∈ opcodeTable) :
    ~~~r.mask = 0 ∨ ~~~r.mask = BitVec.twoPow 32 4 := by
  revert r
  decide

theorem and_openBits {r : OpcodeRow} (h : r ∈ opcodeTable) (w : Word) :
    w &&& ~~~r.mask = 0 ∨ w &&& ~~~r.mask = ~~~r.mask := by
  obtain hm | hm := openBits_of_mem_opcodeTable h
  · rw [hm]
    exact .inl BitVec.and_zero
  · rw [hm, BitVec.and_twoPow]
    split
    · exact .inr rfl
    · exact .inl rfl

/-- The match value of a row, with the open bit at 0 and at 1, decodes to a command with the row's mnemonic. -/
theorem decode_row {r : OpcodeRow} (hr : r ∈ opcodeTable) {b : Word} (hb : b = 0 ∨ b = ~~~r.mask) :
    (decode (r.matchBits ||| b)).map Instr.mnemonic = .ok r.mnemonic := by
  have rows : ∀ r ∈ opcodeTable, (decode (r.matchBits ||| 0)).map Instr.mnemonic = .ok r.mnemonic ∧
      (decode (r.matchBits ||| ~~~r.mask)).map Instr.mnemonic = .ok r.mnemonic := by decide
  obtain rfl | rfl := hb
  exacts [(rows r hr).1, (rows r hr).2]

theorem exists_command_of_selects {r : OpcodeRow} {w : Word} (hr : r ∈ opcodeTable) (h : r.selects w = true) :
    ∃ i, decode w = .ok i ∧ i.mnemonic = r.mnemonic := by
  have hdecode := decode_row hr (and_openBits hr w)
  rw [← eq_of_selects h] at hdecode
  cases hw : decode w with
  | ok i => exact ⟨i, rfl, Except.ok.inj (hw ▸ hdecode)⟩
  | error e => cases hw ▸ hdecode

/-- Every command has its row in the map. -/
theorem tableRow (i : Instr) : Laws.TableRow.Statement i := by
  cases i with
  | extB o => exact Laws.TableRow.extB o
  | extHBe => exact Laws.TableRow.extHBe
  | extHLe => exact Laws.TableRow.extHLe
  | extWBe => exact Laws.TableRow.extWBe
  | extWLe => exact Laws.TableRow.extWLe
  | extDBe => exact Laws.TableRow.extDBe
  | extDLe => exact Laws.TableRow.extDLe
  | composeB o => exact Laws.TableRow.composeB o
  | composeHBe => exact Laws.TableRow.composeHBe
  | composeHLe => exact Laws.TableRow.composeHLe
  | composeWBe => exact Laws.TableRow.composeWBe
  | composeWLe => exact Laws.TableRow.composeWLe
  | composeDBe => exact Laws.TableRow.composeDBe
  | composeDLe => exact Laws.TableRow.composeDLe
  | sumclr => exact Laws.TableRow.sumclr
  | sumadd => exact Laws.TableRow.sumadd
  | swap => exact Laws.TableRow.swap
  | unswap => exact Laws.TableRow.unswap
  | convertW => exact Laws.TableRow.convertW
  | convertB => exact Laws.TableRow.convertB
  | clrerr => exact Laws.TableRow.clrerr

theorem exists_row_of_decode {w : Word} {i : Instr} (h : decode w = .ok i) :
    ∃ r ∈ opcodeTable, r.mnemonic = i.mnemonic ∧ r.selects w = true :=
  encode_of_decode h ▸ tableRow i

/-- A word that selects two rows makes each row's match value agree with the other's under both masks. -/
theorem match_and_mask_comm {r r' : OpcodeRow} {w : Word} (h : r.selects w = true) (h' : r'.selects w = true) :
    r.matchBits &&& r'.mask = r'.matchBits &&& r.mask := by
  rw [← selects_iff.mp h, ← selects_iff.mp h', BitVec.and_assoc, BitVec.and_assoc, BitVec.and_comm r.mask]

theorem opcodeTable_pairwise_disjoint :
    opcodeTable.Pairwise (fun r r' => ∀ w : Word, ¬ (r.selects w = true ∧ r'.selects w = true)) := by
  have clash : opcodeTable.Pairwise (fun r r' => r.matchBits &&& r'.mask ≠ r'.matchBits &&& r.mask) := by decide
  exact clash.imp fun hne _ ⟨h, h'⟩ => hne (match_and_mask_comm h h')

end Sys2Proof
end

section
/-! SUPPORT. The command step on an illegal word (30_encoding.md R67). -/

namespace Sys2Proof.Machine

theorem commandWrite_illegal_unlatched {w : Word} {s : State} (hs : s.err = 0) (h : ∀ i, decode w ≠ .ok i) :
    commandWrite w s = .next { s with err := 2, cause := 1 } := by
  rw [commandWrite_illegal w s h, command_unlatched _ s hs]
  rfl

theorem commandWrite_illegal_latched {w : Word} {s : State} (hs : s.err ≠ 0) (h : ∀ i, decode w ≠ .ok i) :
    commandWrite w s = .next s := by
  rw [commandWrite_illegal w s h, command_latched _ s hs]

end Sys2Proof.Machine
end

section
/-! SUPPORT. The statements about command words settled (30_encoding.md R61 to R63, R67). -/

namespace Sys2Proof.Proofs

open Sys2Proof Sys2Proof.Machine

/-- Settles O1: each command's word is computed; the other way the decoder's fields are all the bits of the word. -/
theorem decodeEncodeAgree : Obligations.DecodeEncodeAgree := by
  unfold Obligations.DecodeEncodeAgree
  exact ⟨fun i _ => decode_encode i, fun _ i h => ⟨instr_wf i, encode_of_decode h⟩⟩

/-- Settles O2: a decoding word is its command's word, whose row is in the map; a row's mask leaves at most `ORD` open,
and both values of it are words of the row's command. -/
theorem decodeFollowsOpcodeMap : Obligations.DecodeFollowsOpcodeMap := by
  unfold Obligations.DecodeFollowsOpcodeMap
  refine ⟨fun w i h => exists_row_of_decode h, fun w r hr h => exists_command_of_selects hr h, fun w hnone i h => ?none,
    opcodeTable_pairwise_disjoint⟩
  case none =>
    obtain ⟨r, hr, -, hsel⟩ := exists_row_of_decode h
    exact Bool.false_ne_true ((hnone r hr).symm.trans hsel)

/-- Settles O3: the illegal words by their fields, the legal ones as the words of the 23 commands, and the front end. -/
theorem illegalWordsTrap : Obligations.IllegalWordsTrap := by
  unfold Obligations.IllegalWordsTrap
  refine ⟨illegal_iff, legal_iff_mem_words, fun s rest w hq h => ⟨fun hs => ?unlatched, fun hs => ?latched⟩⟩
  case unlatched => exact (step_command s w rest hq).trans (commandWrite_illegal_unlatched hs h)
  case latched => exact (step_command s w rest hq).trans (commandWrite_illegal_latched hs h)

/-- Settles O4: seven words that are their commands' encodings, and one with `OP` 0. -/
theorem someWordsDecode : Obligations.SomeWordsDecode := by
  unfold Obligations.SomeWordsDecode
  exact ⟨decode_encode .extHBe, decode_encode .extDLe, decode_encode (.composeB .le), decode_encode .sumadd,
    decode_encode .swap, decode_encode .convertB, decode_encode .clrerr, (illegal_iff 0).mpr (.inr (.inl rfl))⟩

end Sys2Proof.Proofs
end

section
/-! SUPPORT. The composing function and its inverse (40_binary_reader.md R80, R99): reversal, the two round trips, and
the values of the explicit byte sequences. -/

namespace Sys2Proof.Machine

/-- `n` bytes taken from anywhere compose to a value of 8n bits. -/
theorem compose_map_range_lt (n : Nat) (byte : Nat → Byte) (o : ByteOrder) :
    compose ((List.range n).map byte) o < 2 ^ (8 * n) := by
  simpa using compose_lt ((List.range n).map byte) o

/-! ### Byte order and reversal (R99 (a)) -/

theorem compose_be_concat (bs : List Byte) (b : Byte) : compose (bs ++ [b]) .be = 2 ^ 8 * compose bs .be + b.toNat := by
  induction bs with
  | nil => simp [compose_be_cons]
  | cons c bs ih =>
    rw [List.cons_append, compose_be_cons, ih, compose_be_cons, List.length_append, List.length_singleton,
      Nat.mul_add, pow_add]
    ring

/-- Reversing the bytes exchanges the two byte orders (R99 (a)). -/
theorem compose_reverse_be (bs : List Byte) : compose bs.reverse .be = compose bs .le := by
  induction bs with
  | nil => rfl
  | cons b bs ih => rw [List.reverse_cons, compose_be_concat, ih, compose_le_cons, Nat.add_comm]

theorem compose_reverse_le (bs : List Byte) : compose bs.reverse .le = compose bs .be := by
  rw [← compose_reverse_be, List.reverse_reverse]

/-! ### Round trips (R99 (b)) -/

@[simp] theorem length_decompose (v n : Nat) (o : ByteOrder) : (decompose v n o).length = n := by
  simp [decompose]

theorem decompose_le_succ (v n : Nat) :
    decompose v (n + 1) .le = BitVec.ofNat 8 v :: decompose (v / 2 ^ 8) n .le := by
  simp only [decompose, shift, List.range_succ_eq_map, List.map_cons, List.map_map, Nat.mul_zero, pow_zero, Nat.div_one]
  congr 1
  refine List.map_congr_left fun i _ => ?_
  rw [Function.comp_apply, Nat.div_div_eq_div_mul, ← pow_add, Nat.mul_succ, Nat.add_comm]

theorem reverse_decompose_le (v n : Nat) : (decompose v n .le).reverse = decompose v n .be := by
  apply List.ext_getElem
  · simp
  · intro i _ _
    simp [decompose, shift]

/-- Little-endian composition keeps the low `n` bytes of a number of any size. -/
theorem compose_decompose_le (v n : Nat) : compose (decompose v n .le) .le = v % 2 ^ (8 * n) := by
  induction n generalizing v with
  | zero => simp [decompose, Nat.mod_one]
  | succ n ih =>
    rw [decompose_le_succ, compose_le_cons, ih, BitVec.toNat_ofNat, Nat.mul_succ, Nat.add_comm (8 * n), pow_add,
      Nat.mod_mul]

/-- Composing what a value decomposes to gives the value back (R99 (b)). -/
theorem compose_decompose {v n : Nat} (o : ByteOrder) (h : v < 2 ^ (8 * n)) : compose (decompose v n o) o = v := by
  cases o with
  | le => rw [compose_decompose_le, Nat.mod_eq_of_lt h]
  | be => rw [← reverse_decompose_le, compose_reverse_be, compose_decompose_le, Nat.mod_eq_of_lt h]

theorem decompose_compose_le (bs : List Byte) : decompose (compose bs .le) bs.length .le = bs := by
  induction bs with
  | nil => rfl
  | cons b bs ih =>
    have low : BitVec.ofNat 8 (compose (b :: bs) .le) = b := by
      apply BitVec.eq_of_toNat_eq
      rw [compose_le_cons, BitVec.toNat_ofNat, Nat.add_mul_mod_self_left, Nat.mod_eq_of_lt b.isLt]
    have high : compose (b :: bs) .le / 2 ^ 8 = compose bs .le := by
      rw [compose_le_cons, Nat.add_mul_div_left _ _ (by decide), Nat.div_eq_of_lt b.isLt, Nat.zero_add]
    rw [List.length_cons, decompose_le_succ, low, high, ih]

/-- Decomposing a composed value gives the bytes back. -/
theorem decompose_compose (bs : List Byte) (o : ByteOrder) : decompose (compose bs o) bs.length o = bs := by
  cases o with
  | le => exact decompose_compose_le bs
  | be =>
    have h := decompose_compose_le bs.reverse
    rw [compose_reverse_le, List.length_reverse] at h
    rw [← reverse_decompose_le, h, List.reverse_reverse]

/-- Byte lists of one length that compose to one value are equal (R99 (c)). -/
theorem compose_inj {bs bs' : List Byte} {o : ByteOrder} (hlen : bs.length = bs'.length)
    (h : compose bs o = compose bs' o) : bs = bs' := by
  rw [← decompose_compose bs o, ← decompose_compose bs' o, hlen, h]

/-! ### The explicit sequences of one, two, four and eight bytes -/

theorem compose_one (b : Byte) (o : ByteOrder) : compose [b] o = b.toNat := by
  cases o with
  | le => simp [compose_le_cons]
  | be => simp [compose_be_cons]

theorem compose_two_be (a b : Byte) : compose [a, b] .be = (a ++ b).toNat := by
  rw [toNat_append, compose_be_cons, compose_one]
  rfl

/-- One more byte on the right of a big-endian sequence is one more byte on the right of its bits. -/
theorem compose_concat_eq_append {bs : List Byte} {w : Nat} {x : BitVec w} (h : compose bs .be = x.toNat) (b : Byte) :
    compose (bs ++ [b]) .be = (x ++ b).toNat := by
  rw [compose_be_concat, h, toNat_append, Nat.mul_comm]

theorem compose_four_be (a b c d : Byte) : compose [a, b, c, d] .be = (a ++ b ++ c ++ d).toNat :=
  compose_concat_eq_append (compose_concat_eq_append (compose_two_be a b) c) d

theorem compose_eight_be (a b c d e f g h : Byte) :
    compose [a, b, c, d, e, f, g, h] .be = (a ++ b ++ c ++ d ++ e ++ f ++ g ++ h).toNat :=
  compose_concat_eq_append (compose_concat_eq_append (compose_concat_eq_append
    (compose_concat_eq_append (compose_four_be a b c d) e) f) g) h

theorem compose_two_le (a b : Byte) : compose [a, b] .le = (b ++ a).toNat := by
  rw [← compose_reverse_be, ← compose_two_be]
  rfl

theorem compose_four_le (a b c d : Byte) : compose [a, b, c, d] .le = (d ++ c ++ b ++ a).toNat := by
  rw [← compose_reverse_be, ← compose_four_be]
  rfl

theorem compose_eight_le (a b c d e f g h : Byte) :
    compose [a, b, c, d, e, f, g, h] .le = (h ++ g ++ f ++ e ++ d ++ c ++ b ++ a).toNat := by
  rw [← compose_reverse_be, ← compose_eight_be]
  rfl

/-! ### Sign extension (R7) -/

/-- The sign extension of a value given by its 8n bits. -/
theorem sext64_toNat (n : Nat) (x : BitVec (8 * n)) : sext64 n x.toNat = x.signExtend 64 := by
  rw [sext64, BitVec.ofNat_toNat, BitVec.setWidth_eq]

/-- A value of eight bytes fills the register. -/
theorem sext64_eight (v : Nat) : sext64 8 v = BitVec.ofNat 64 v := BitVec.signExtend_eq _

theorem sext64_eight_toNat (x : DWord) : sext64 8 x.toNat = x := by
  rw [sext64_eight, BitVec.ofNat_toNat, BitVec.setWidth_eq]

/-- The signed reading of a sign extension is that of the 8n-bit value (R7). -/
theorem toInt_sext64 {n v : Nat} (hpos : 0 < n) (hn : n ≤ 8) (h : v < 2 ^ (8 * n)) :
    (sext64 n v).toInt = (v : Int) - (if 2 ^ (8 * n - 1) ≤ v then 2 ^ (8 * n) else 0) := by
  have hwidth : 8 * n ≤ 64 := by omega
  have hhalf : 2 * 2 ^ (8 * n - 1) = 2 ^ (8 * n) := mul_pow_sub_one (by omega) 2
  rw [sext64, BitVec.toInt_signExtend_of_le hwidth, BitVec.toInt_eq_toNat_cond, BitVec.toNat_ofNat, Nat.mod_eq_of_lt h,
    ← hhalf]
  by_cases hv : 2 ^ (8 * n - 1) ≤ v
  · rw [if_neg (by omega), if_pos hv, hhalf]
    push_cast
    rfl
  · rw [if_pos (by omega), if_neg hv, Int.sub_zero]

/-- A sign extension keeps the low 8n bits. -/
theorem toNat_sext64_mod {n v : Nat} (hn : n ≤ 8) (h : v < 2 ^ (8 * n)) :
    (sext64 n v).toNat % 2 ^ (8 * n) = v := by
  have low (x : BitVec (8 * n)) : (x.signExtend 64).setWidth (8 * n) = x := by
    ext i hi
    have hi64 : i < 64 := by omega
    simp [BitVec.getElem_signExtend, hi, hi64]
  rw [← BitVec.toNat_setWidth, sext64, low, BitVec.toNat_ofNat, Nat.mod_eq_of_lt h]

end Sys2Proof.Machine
end

section
/-! SUPPORT. The rules of `EXT`, `COMPOSE` and the sum in the terms of the statements (40_binary_reader.md R81, R91,
R100 to R102). -/

namespace Sys2Proof.Machine

/-! ### The bytes at the cursor and in the lanes of `OPERAND` -/

/-- What `EXT` of `n` bytes puts in `RESULT` (R81). -/
def extValue (n : Nat) (o : ByteOrder) (s : State) : DWord := sext64 n (compose ((List.range n).map (cursorByte s)) o)

/-- What `COMPOSE` of `n` bytes puts in `RESULT` (R91). -/
def composeValue (n : Nat) (o : ByteOrder) (s : State) : DWord :=
  sext64 n (compose ((List.range n).map (operandByte s)) o)

/-- The lanes of `OPERAND` are its little-endian bytes (R14). -/
theorem operandBytes_eq_decompose (n : Nat) (s : State) :
    (List.range n).map (operandByte s) = decompose s.operand.toNat n .le := by
  refine List.map_congr_left fun i _ => BitVec.eq_of_toNat_eq ?_
  rw [operandByte, BitVec.extractLsb'_toNat, BitVec.toNat_ofNat, Nat.shiftRight_eq_div_pow]
  rfl

/-! ### The rules of whole families -/

/-- Every row of `EXT` follows the rule of its length and order. -/
theorem extRule_of_mem {i : Instr} {n : Nat} {o : ByteOrder} (h : (i, n, o) ∈ extRows) :
    ExtRule i n (extValue n o) := by
  obtain ⟨l, rfl, hexec⟩ := exec_of_mem_extRows h
  intro s hs
  simp only [hexec, command_unlatched _ s hs]
  obtain ⟨hwrap, e⟩ | ⟨hregion, hshort, e⟩ | ⟨hregion, hfits, e⟩ := extract_cases l o s <;> rw [e]
  · exact ⟨fun _ => rfl, fun hle => by omega, fun ⟨hle, _⟩ => by omega⟩
  · exact ⟨fun hlt => by omega, fun _ _ => rfl, fun ⟨_, hle⟩ => by omega⟩
  · exact ⟨fun hlt => by omega, fun _ hlt => by omega, fun _ => ⟨_, toNat_add_ofNat _ _ _ hfits, rfl⟩⟩

/-- Every row of `COMPOSE` follows the rule of its length and order. -/
theorem composeRule_of_mem {i : Instr} {n : Nat} {o : ByteOrder} (h : (i, n, o) ∈ composeRows) :
    ComposeRule i (composeValue n o) := by
  obtain ⟨l, rfl, hexec⟩ := exec_of_mem_composeRows h
  intro s hs
  rw [hexec, command_unlatched _ s hs]
  rfl

/-- The rule of a row of `EXT`, its value given by bits. -/
theorem extRule_of_value {i : Instr} {n : Nat} {o : ByteOrder} (h : (i, n, o) ∈ extRows) {value : State → DWord}
    (hvalue : ∀ s, extValue n o s = value s) : ExtRule i n value :=
  (funext hvalue : extValue n o = value) ▸ extRule_of_mem h

/-- The rule of a row of `COMPOSE`, its value given by bits. -/
theorem composeRule_of_value {i : Instr} {n : Nat} {o : ByteOrder} (h : (i, n, o) ∈ composeRows)
    {value : State → DWord} (hvalue : ∀ s, composeValue n o s = value s) : ComposeRule i value :=
  (funext hvalue : composeValue n o = value) ▸ composeRule_of_mem h

theorem length_bytes_le (l : Length) : l.bytes ≤ 8 := by
  cases l <;> decide

theorem bytes_of_mem_extRows {i : Instr} {n : Nat} {o : ByteOrder} (h : (i, n, o) ∈ extRows) : 0 < n ∧ n ≤ 8 := by
  obtain ⟨l, rfl, -⟩ := exec_of_mem_extRows h
  exact ⟨length_bytes_pos l, length_bytes_le l⟩

theorem bytes_of_mem_composeRows {i : Instr} {n : Nat} {o : ByteOrder} (h : (i, n, o) ∈ composeRows) :
    0 < n ∧ n ≤ 8 := by
  obtain ⟨l, rfl, -⟩ := exec_of_mem_composeRows h
  exact ⟨length_bytes_pos l, length_bytes_le l⟩

/-- `CLRERR` after a trap gives back the state before it (R152, R169). -/
theorem exec_clrerr_trapped {e : BitVec 2} {c : BitVec 4} {s : State} (hs : s.err = 0) (hc : s.cause = 0) :
    exec .clrerr (trapped e c s) = .next s := by
  have hback : { s with err := 0, cause := 0 } = s := by rw [← hs, ← hc]
  exact congrArg Host.Outcome.next hback

/-- `RESULT` after an `EXT` that fits. -/
theorem result_of_ext {i : Instr} {n : Nat} {o : ByteOrder} {s t : State} (hi : (i, n, o) ∈ extRows) (hs : s.err = 0)
    (hfits : cursorHas s n) (ht : exec i s = .next t) : t.result = extValue n o s := by
  obtain ⟨-, -, hnext⟩ := extRule_of_mem hi s hs
  obtain ⟨p, -, hexec⟩ := hnext hfits
  rw [← Host.Outcome.next.inj (hexec.symm.trans ht)]

/-- `RESULT` after a `COMPOSE`. -/
theorem result_of_compose {i : Instr} {n : Nat} {o : ByteOrder} {s t : State} (hi : (i, n, o) ∈ composeRows)
    (hs : s.err = 0) (ht : exec i s = .next t) : t.result = composeValue n o s := by
  rw [← Host.Outcome.next.inj ((composeRule_of_mem hi s hs).symm.trans ht)]

/-- The two readings of `RESULT` after a composition of `n` bytes (R7, R103). -/
theorem readings_of_sext64_compose {n : Nat} (hn : 0 < n ∧ n ≤ 8) (byte : Nat → Byte) (o : ByteOrder) :
    (sext64 n (compose ((List.range n).map byte) o)).toNat % 2 ^ (8 * n) = compose ((List.range n).map byte) o ∧
    (sext64 n (compose ((List.range n).map byte) o)).toInt = (compose ((List.range n).map byte) o : Int) -
      (if 2 ^ (8 * n - 1) ≤ compose ((List.range n).map byte) o then 2 ^ (8 * n) else 0) := by
  have hlt := compose_map_range_lt n byte o
  obtain ⟨hpos, hle⟩ := hn
  exact ⟨toNat_sext64_mod hle hlt, toInt_sext64 hpos hle hlt⟩

/-! ### The values of each length and order, by bits (R83 to R89, R93, R95, R97) -/

theorem sext64_compose_one (byte : Nat → Byte) (o : ByteOrder) :
    sext64 1 (compose ((List.range 1).map byte) o) = (byte 0).signExtend 64 :=
  (congrArg (sext64 1) (compose_one _ o)).trans (sext64_toNat 1 _)

theorem sext64_compose_two_be (byte : Nat → Byte) :
    sext64 2 (compose ((List.range 2).map byte) .be) = (byte 0 ++ byte 1).signExtend 64 :=
  (congrArg (sext64 2) (compose_two_be _ _)).trans (sext64_toNat 2 _)

theorem sext64_compose_two_le (byte : Nat → Byte) :
    sext64 2 (compose ((List.range 2).map byte) .le) = (byte 1 ++ byte 0).signExtend 64 :=
  (congrArg (sext64 2) (compose_two_le _ _)).trans (sext64_toNat 2 _)

theorem sext64_compose_four_be (byte : Nat → Byte) :
    sext64 4 (compose ((List.range 4).map byte) .be) = (byte 0 ++ byte 1 ++ byte 2 ++ byte 3).signExtend 64 :=
  (congrArg (sext64 4) (compose_four_be _ _ _ _)).trans (sext64_toNat 4 _)

theorem sext64_compose_four_le (byte : Nat → Byte) :
    sext64 4 (compose ((List.range 4).map byte) .le) = (byte 3 ++ byte 2 ++ byte 1 ++ byte 0).signExtend 64 :=
  (congrArg (sext64 4) (compose_four_le _ _ _ _)).trans (sext64_toNat 4 _)

theorem sext64_compose_eight_be (byte : Nat → Byte) :
    sext64 8 (compose ((List.range 8).map byte) .be) =
      byte 0 ++ byte 1 ++ byte 2 ++ byte 3 ++ byte 4 ++ byte 5 ++ byte 6 ++ byte 7 :=
  (congrArg (sext64 8) (compose_eight_be _ _ _ _ _ _ _ _)).trans (sext64_eight_toNat _)

theorem sext64_compose_eight_le (byte : Nat → Byte) :
    sext64 8 (compose ((List.range 8).map byte) .le) =
      byte 7 ++ byte 6 ++ byte 5 ++ byte 4 ++ byte 3 ++ byte 2 ++ byte 1 ++ byte 0 :=
  (congrArg (sext64 8) (compose_eight_le _ _ _ _ _ _ _ _)).trans (sext64_eight_toNat _)

/-! ### `COMPOSE` as slices and as byte reversal -/

/-- Little-endian composition of the lanes is the slice of `OPERAND` (R94, R96, R98). -/
theorem composeValue_le (n : Nat) (s : State) :
    composeValue n .le s = (s.operand.extractLsb' 0 (8 * n)).signExtend 64 := by
  have hslice : s.operand.toNat % 2 ^ (8 * n) = (s.operand.extractLsb' 0 (8 * n)).toNat := by
    rw [BitVec.extractLsb'_toNat, Nat.shiftRight_zero]
  rw [composeValue, operandBytes_eq_decompose, compose_decompose_le, hslice, sext64_toNat]

theorem composeValue_eight_le (s : State) : composeValue 8 .le s = s.operand := by
  rw [composeValue_le, BitVec.signExtend_eq]
  exact BitVec.extractLsb'_eq_self

/-- The big-endian composition of eight lanes is the little-endian one of the lanes reversed (R97). -/
theorem toNat_composeValue_eight_be (s : State) :
    (composeValue 8 .be s).toNat = compose ((List.range 8).map (operandByte s)).reverse .le := by
  rw [compose_reverse_le, composeValue, sext64_eight, BitVec.toNat_ofNat]
  exact Nat.mod_eq_of_lt (compose_map_range_lt 8 _ .be)

/-- Reversing the eight bytes twice gives the operand back (R97). -/
theorem composeValue_eight_be_involutive {s t : State} (h : t.operand = composeValue 8 .be s) :
    composeValue 8 .be t = s.operand := by
  have hlanes : (List.range 8).map (operandByte t) = ((List.range 8).map (operandByte s)).reverse := by
    rw [operandBytes_eq_decompose, h, toNat_composeValue_eight_be]
    exact decompose_compose_le _
  rw [composeValue, hlanes, compose_reverse_be]
  exact composeValue_eight_le s

/-! ### The sum (R100 to R102) -/

theorem exec_sumclr {s : State} (h : s.err = 0) : exec .sumclr s = .next { s with acc := 0 } :=
  command_unlatched _ s h

theorem exec_sumadd {s : State} (h : s.err = 0) : exec .sumadd s = .next { s with acc := s.acc + s.operand } :=
  command_unlatched _ s h

/-- A step that takes a command from the host's queue. -/
theorem step_scriptCommand {s : State} {i : Instr} {rest : List HostStep} (hq : s.hostQueue = scriptCommand i ++ rest) :
    step s = exec i { s with hostQueue := rest } :=
  (step_command s (encode i) rest hq).trans (commandWrite_legal _ i _ (decode_encode i))

/-- The two halves of a 64-bit write put the value in the register (R42). -/
theorem hiHalf_append_loHalf (v : DWord) : hiHalf v ++ loHalf v = v :=
  (BitVec.extractLsb'_append_extractLsb'_eq_extractLsb' rfl).trans BitVec.extractLsb'_eq_self

theorem step_writeOperandLo {s : State} {v : Word} {rest : List HostStep}
    (hq : s.hostQueue = .writeReg 0x14 v :: rest) :
    step s = .next { s with operand := hiHalf s.operand ++ v, hostQueue := rest } :=
  step_cons s _ rest hq

theorem step_writeOperandHi {s : State} {v : Word} {rest : List HostStep}
    (hq : s.hostQueue = .writeReg 0x18 v :: rest) :
    step s = .next { s with operand := v ++ loHalf s.operand, hostQueue := rest } :=
  step_cons s _ rest hq

/-- `wr64 OPERAND, v` takes two steps, after which `OPERAND` is `v` (R42). -/
theorem run_scriptWriteOperand {s : State} {v : DWord} {rest : List HostStep} (k : Nat)
    (hq : s.hostQueue = scriptWriteOperand v ++ rest) :
    run (k + 2) s = run k { s with operand := v, hostQueue := rest } := by
  have hq : s.hostQueue = .writeReg 0x14 (loHalf v) :: .writeReg 0x18 (hiHalf v) :: rest := hq
  obtain ⟨hlow, -⟩ := halves (loHalf v) s.operand
  rw [run_succ _ _ _ (step_writeOperandLo hq), run_succ _ _ _ (step_writeOperandHi rfl)]
  simp only [hlow, hiHalf_append_loHalf]

/-- One value of `sum` takes three steps and adds the value (R102). -/
theorem run_scriptAddValue {s : State} {v : DWord} {rest : List HostStep} (k : Nat) (hs : s.err = 0)
    (hq : s.hostQueue = scriptAddValue v ++ rest) :
    run (k + 3) s = run k { s with acc := s.acc + v, operand := v, hostQueue := rest } := by
  rw [scriptAddValue, List.append_assoc] at hq
  rw [run_scriptWriteOperand (k + 1) hq]
  exact run_succ _ _ _ ((step_scriptCommand rfl).trans (exec_sumadd hs))

/-- The values of `sum` add up in `ACC`, from any value of it (R100). -/
theorem run_flatMap_scriptAddValue (vs : List DWord) {s : State} {rest : List HostStep} (hs : s.err = 0)
    (hq : s.hostQueue = vs.flatMap scriptAddValue ++ rest) :
    ∃ a p : DWord, a.toNat = (s.acc.toNat + (vs.map BitVec.toNat).sum) % 2 ^ 64 ∧
      run (3 * vs.length) s = .next { s with acc := a, operand := p, hostQueue := rest } := by
  induction vs generalizing s with
  | nil =>
    obtain rfl : s.hostQueue = rest := hq
    exact ⟨s.acc, s.operand, (Nat.mod_eq_of_lt s.acc.isLt).symm, rfl⟩
  | cons v vs ih =>
    rw [List.flatMap_cons, List.append_assoc] at hq
    obtain ⟨a, p, ha, hrun⟩ :=
      ih (s := { s with acc := s.acc + v, operand := v, hostQueue := vs.flatMap scriptAddValue ++ rest }) hs rfl
    refine ⟨a, p, ?_, (run_scriptAddValue (3 * vs.length) hs hq).trans hrun⟩
    rw [ha, BitVec.toNat_add, List.map_cons, List.sum_cons, Nat.mod_add_mod, Nat.add_assoc]

end Sys2Proof.Machine
end

section
/-! SUPPORT. The statements about the BinaryReader settled (40_binary_reader.md R80 to R103). -/

namespace Sys2Proof.Proofs

open Sys2Proof Sys2Proof.Machine

/-- Settles O17: the rule of the `EXT` rows, whose one byte has no order. -/
theorem extByteFollowsRule : Obligations.ExtByteFollowsRule := by
  unfold Obligations.ExtByteFollowsRule
  refine ⟨decode_encode (.extB .be), decode_encode (.extB .le), fun o => ?_⟩
  have hrow : (.extB o, 1, o) ∈ extRows := by cases o <;> decide
  exact extRule_of_value hrow fun s => sext64_compose_one (cursorByte s) o

/-- Settles O18: the rule of the `EXT` rows at two bytes. -/
theorem extHalfFollowsRule : Obligations.ExtHalfFollowsRule := by
  unfold Obligations.ExtHalfFollowsRule
  exact ⟨decode_encode .extHBe, decode_encode .extHLe,
    extRule_of_value (o := .be) (by decide) fun s => sext64_compose_two_be (cursorByte s),
    extRule_of_value (o := .le) (by decide) fun s => sext64_compose_two_le (cursorByte s)⟩

/-- Settles O19: the rule of the `EXT` rows at four bytes. -/
theorem extWordFollowsRule : Obligations.ExtWordFollowsRule := by
  unfold Obligations.ExtWordFollowsRule
  exact ⟨decode_encode .extWBe, decode_encode .extWLe,
    extRule_of_value (o := .be) (by decide) fun s => sext64_compose_four_be (cursorByte s),
    extRule_of_value (o := .le) (by decide) fun s => sext64_compose_four_le (cursorByte s)⟩

/-- Settles O20: the rule of the `EXT` rows at eight bytes, where sign extension adds nothing. -/
theorem extDoubleFollowsRule : Obligations.ExtDoubleFollowsRule := by
  unfold Obligations.ExtDoubleFollowsRule
  exact ⟨decode_encode .extDBe, decode_encode .extDLe,
    extRule_of_value (o := .be) (by decide) fun s => sext64_compose_eight_be (cursorByte s),
    extRule_of_value (o := .le) (by decide) fun s => sext64_compose_eight_le (cursorByte s)⟩

/-- Settles O21: the three clauses of the rule of `EXT`, at the state the first command leaves and at the state that
`CLRERR` gives back. -/
theorem cursorEndBehaves : Obligations.CursorEndBehaves := by
  unfold Obligations.CursorEndBehaves
  intro s i j n m o p hi hj hs hc hregion
  refine ⟨fun hexact => ?exactFit, fun hshort hfits => ?recovery⟩
  case exactFit =>
    obtain ⟨-, -, hnext⟩ := extRule_of_mem hi s hs
    obtain ⟨q, hq, hexec⟩ := hnext ⟨hregion, hexact.le⟩
    obtain rfl : q = s.curLen := BitVec.eq_of_toNat_eq (hq.trans hexact)
    obtain ⟨-, hexhausted, -⟩ := extRule_of_mem hj { s with result := extValue n o s, curPos := s.curLen } hs
    obtain ⟨hpos, -⟩ := bytes_of_mem_extRows hj
    exact ⟨_, hexec, rfl, hexhausted hregion (Nat.lt_add_of_pos_right hpos)⟩
  case recovery =>
    obtain ⟨-, htrap, -⟩ := extRule_of_mem hi s hs
    obtain ⟨-, -, hnext⟩ := extRule_of_mem hj s hs
    obtain ⟨q, hq, hexec⟩ := hnext ⟨hregion, hfits⟩
    exact ⟨_, s, htrap hregion hshort, exec_clrerr_trapped hs hc, rfl, _, hexec, hs, hq⟩

/-- Settles O22: the value that each rule puts in `RESULT` is the sign extension of a composed value of 8n bits. -/
theorem resultHoldsSignedValue : Obligations.ResultHoldsSignedValue := by
  unfold Obligations.ResultHoldsSignedValue
  refine ⟨fun s t i n o hi hs hfits ht => ?ext, fun s t i n o hi hs ht => ?compose⟩
  case ext =>
    rw [result_of_ext hi hs hfits ht]
    exact readings_of_sext64_compose (bytes_of_mem_extRows hi) (cursorByte s) o
  case compose =>
    rw [result_of_compose hi hs ht]
    exact readings_of_sext64_compose (bytes_of_mem_composeRows hi) (operandByte s) o

/-- Settles O23: reversal, the two round trips, and the range. -/
theorem composeFunctionLaws : Obligations.ComposeFunctionLaws := by
  unfold Obligations.ComposeFunctionLaws
  exact ⟨fun bs => (compose_reverse_be bs).symm, fun n v o h => ⟨length_decompose v n o, compose_decompose o h⟩,
    compose_lt, fun _ _ _ => compose_inj⟩

/-- Settles O24: the rule of the `COMPOSE` rows, whose one lane has no order. -/
theorem composeByteFollowsRule : Obligations.ComposeByteFollowsRule := by
  unfold Obligations.ComposeByteFollowsRule
  refine ⟨decode_encode (.composeB .be), decode_encode (.composeB .le), fun o => ?_⟩
  have hrow : (.composeB o, 1, o) ∈ composeRows := by cases o <;> decide
  exact composeRule_of_value hrow fun s => sext64_compose_one (operandByte s) o

/-- Settles O25: the rule of the `COMPOSE` rows in big-endian order; at eight lanes it reverses the bytes. -/
theorem composeBigEndianFollowsRule : Obligations.ComposeBigEndianFollowsRule := by
  unfold Obligations.ComposeBigEndianFollowsRule
  refine ⟨decode_encode .composeHBe, decode_encode .composeWBe, decode_encode .composeDBe,
    composeRule_of_value (o := .be) (n := 2) (by decide) fun s => sext64_compose_two_be (operandByte s),
    composeRule_of_value (o := .be) (n := 4) (by decide) fun s => sext64_compose_four_be (operandByte s),
    composeRule_of_value (o := .be) (n := 8) (by decide) fun s => sext64_compose_eight_be (operandByte s),
    fun s hs => ?involution⟩
  case involution =>
    have hrule : ComposeRule .composeDBe (composeValue 8 .be) := composeRule_of_mem (by decide)
    exact ⟨_, _, hrule s hs, hrule _ hs, composeValue_eight_be_involutive rfl⟩

/-- Settles O26: the rule of the `COMPOSE` rows in little-endian order, which keeps the lanes in place. -/
theorem composeLittleEndianFollowsRule : Obligations.ComposeLittleEndianFollowsRule := by
  unfold Obligations.ComposeLittleEndianFollowsRule
  exact ⟨decode_encode .composeHLe, decode_encode .composeWLe, decode_encode .composeDLe,
    composeRule_of_value (o := .le) (by decide) (composeValue_le 2),
    composeRule_of_value (o := .le) (by decide) (composeValue_le 4),
    composeRule_of_value (o := .le) (by decide) composeValue_eight_le⟩

/-- Settles O27: both results are the composition of the same bytes. -/
theorem extAgreesWithCompose : Obligations.ExtAgreesWithCompose := by
  unfold Obligations.ExtAgreesWithCompose
  intro s t u i j n o hi hj hs hfits hlanes ht hu
  have hbytes : (List.range n).map (cursorByte s) = (List.range n).map (operandByte s) :=
    List.map_congr_left fun k hk => (hlanes k (List.mem_range.mp hk)).symm
  rw [result_of_ext hi hs hfits ht, result_of_compose hj hs hu, extValue, composeValue, hbytes]

/-- Settles O28: both commands are their effect on `ACC`, behind the front end. -/
theorem sumCommandsFollowRules : Obligations.SumCommandsFollowRules := by
  unfold Obligations.SumCommandsFollowRules
  exact ⟨decode_encode .sumclr, decode_encode .sumadd, fun _ hs => exec_sumclr hs,
    fun s hs => ⟨s.acc + s.operand, BitVec.toNat_add _ _, exec_sumadd hs⟩⟩

/-- Settles O29: `SUMCLR` is one step, and then the values add up from 0, by induction on the sequence. -/
theorem sumOfSequence : Obligations.SumOfSequence := by
  unfold Obligations.SumOfSequence
  intro vs rest s hs hq
  rw [scriptSum, List.append_assoc] at hq
  obtain ⟨a, p, ha, hrun⟩ := run_flatMap_scriptAddValue vs (rest := rest)
    (s := { s with acc := 0, hostQueue := vs.flatMap scriptAddValue ++ rest }) hs rfl
  refine ⟨a, p, by simpa using ha, ?_⟩
  rw [Nat.add_comm, run_succ _ _ _ ((step_scriptCommand hq).trans (exec_sumclr hs))]
  exact hrun

end Sys2Proof.Proofs
end

section
/-! SUPPORT. `SWAP` and `UNSWAP` as the store and the load of one packed word (41_layout_swap.md R111, R112). -/

namespace Sys2Proof.Machine

/-! ### The packed word (R17, R110) -/

theorem alphaOf_append_low (p : Word) : alphaOf p ++ p.extractLsb' 0 24 = p :=
  (BitVec.extractLsb'_append_extractLsb'_eq_extractLsb' rfl).trans BitVec.extractLsb'_eq_self

/-- The three colour components of a packed word are its low 24 bits. -/
theorem argb_components (a : Byte) (p : Word) : argb a (redOf p) (greenOf p) (blueOf p) = a ++ p.extractLsb' 0 24 := by
  have hgb : greenOf p ++ blueOf p = p.extractLsb' 0 16 := BitVec.extractLsb'_append_extractLsb'_eq_extractLsb' rfl
  have hrgb : redOf p ++ p.extractLsb' 0 16 = p.extractLsb' 0 24 :=
    BitVec.extractLsb'_append_extractLsb'_eq_extractLsb' rfl
  rw [← hrgb, ← hgb, argb, BitVec.append_assoc, BitVec.append_assoc]
  rfl

/-! ### A word of `M` (R8, R41) -/

/-- The store of a packed word is the store of its four components, blue first. -/
theorem writeWord_argb (m : Memory) (x : Nat) (a r g b : Byte) :
    Memory.writeWord m x (argb a r g b) = Memory.writeBytes m x [b, g, r, a] := by
  obtain ⟨hb, hg, hr, ha⟩ := argb_parts a r g b
  change Memory.writeBytes m x [blueOf _, greenOf _, redOf _, alphaOf _] = _
  rw [hb, hg, hr, ha]

/-- A load gives back the word stored at the same address. -/
theorem readWord_writeWord (m : Memory) (x : Nat) (v : Word) : Memory.readWord (Memory.writeWord m x v) x = v := by
  have hbyte (k : Nat) (hk : k < 4) := Memory.read_writeBytes_inside [blueOf v, greenOf v, redOf v, alphaOf v] m x k hk
  calc Memory.readWord (Memory.writeWord m x v) x
      = argb (alphaOf v) (redOf v) (greenOf v) (blueOf v) :=
        congr (congr (congrArg₂ argb (hbyte 3 (by decide)) (hbyte 2 (by decide))) (hbyte 1 (by decide)))
          (hbyte 0 (by decide))
    _ = v := (argb_components _ v).trans (alphaOf_append_low v)

/-- Storing the word that an address holds changes no byte. -/
theorem read_writeWord_readWord (m : Memory) (x y : Nat) :
    Memory.read (Memory.writeWord m x (Memory.readWord m x)) y = Memory.read m y := by
  have hstore : Memory.writeWord m x (Memory.readWord m x) = Memory.writeBytes m x (Memory.readBytes m x 4) :=
    writeWord_argb m x _ _ _ _
  rw [hstore]
  by_cases hin : x ≤ y ∧ y < x + 4
  · obtain ⟨k, rfl⟩ := Nat.exists_eq_add_of_le hin.1
    have hk : k < (Memory.readBytes m x 4).length := by rw [Memory.length_readBytes]; omega
    rw [Memory.read_writeBytes_inside _ _ _ k hk, Memory.readBytes_getElem]
  · exact Memory.read_writeBytes_outside _ _ _ _ (by rw [Memory.length_readBytes]; omega)

theorem toNat_readWord (m : Memory) (x : Nat) :
    (Memory.readWord m x).toNat = (Memory.read m (x + 3)).toNat * 2 ^ 24 + (Memory.read m (x + 2)).toNat * 2 ^ 16 +
      (Memory.read m (x + 1)).toNat * 2 ^ 8 + (Memory.read m x).toNat := by
  simp only [Memory.readWord, toNat_append]
  omega

/-! ### `SWAP` (R111) -/

/-- `SWAP` stores the word `{ALPHA, PIXEL[23:0]}`. -/
theorem writeBytes_swapBytes (m : Memory) (x : Nat) (s : State) :
    Memory.writeBytes m x (swapBytes s) = Memory.writeWord m x (s.alpha ++ s.pixel.extractLsb' 0 24) := by
  rw [← argb_components, writeWord_argb, swapBytes]

/-- With `ALPHA = PIXEL[31:24]` that word is `PIXEL`. -/
theorem alpha_append_low {s : State} (h : s.alpha = s.pixel.extractLsb' 24 8) :
    s.alpha ++ s.pixel.extractLsb' 0 24 = s.pixel := by
  rw [h]
  exact alphaOf_append_low s.pixel

/-- `SWAP` with no error latched: its two traps in their order, and its effect. -/
theorem exec_swap {s : State} (hs : s.err = 0) :
    (2 ^ 32 < s.outBase.toNat + s.outCap.toNat → exec .swap s = .next (trapped 2 2 s)) ∧
    (s.outBase.toNat + s.outCap.toNat ≤ 2 ^ 32 → s.outCap.toNat < s.outPos.toNat + 4 →
      exec .swap s = .next (trapped 2 10 s)) ∧
    (outHasPixel s → exec .swap s = .next { s with mem := Memory.writeBytes s.mem (outAddr s) (swapBytes s)
                                                   outPos := s.outPos + BitVec.ofNat 32 4 }) := by
  have hexec : exec .swap s = .next (swapPixel s) := command_unlatched _ s hs
  rw [hexec]
  obtain ⟨hwrap, e⟩ | ⟨hregion, hfull, e⟩ | ⟨hregion, hfits, e⟩ := swapPixel_cases s <;> rw [e]
  · exact ⟨fun _ => rfl, fun hle => by omega, fun ⟨hle, _⟩ => by omega⟩
  · exact ⟨fun hlt => by omega, fun _ _ => rfl, fun ⟨_, hle⟩ => by omega⟩
  · exact ⟨fun hlt => by omega, fun _ hlt => by omega, fun _ => rfl⟩

theorem exec_swap_of_outHasPixel {s : State} (hs : s.err = 0) (h : outHasPixel s) :
    exec .swap s = .next { s with mem := Memory.writeBytes s.mem (outAddr s) (swapBytes s)
                                  outPos := s.outPos + BitVec.ofNat 32 4 } := by
  obtain ⟨-, -, hstores⟩ := exec_swap hs
  exact hstores h

/-! ### `UNSWAP` (R112) -/

/-- `UNSWAP` with no error latched: its two traps in their order, and the load of the word at the cursor. -/
theorem exec_unswap {s : State} (hs : s.err = 0) :
    (2 ^ 32 < s.curBase.toNat + s.curLen.toNat → exec .unswap s = .next (trapped 2 2 s)) ∧
    (s.curBase.toNat + s.curLen.toNat ≤ 2 ^ 32 → s.curLen.toNat < s.curPos.toNat + 4 →
      exec .unswap s = .next (trapped 1 0 s)) ∧
    (cursorHas s 4 → exec .unswap s = .next { s with pixel := Memory.readWord s.mem (cursorAddr s)
                                                     curPos := s.curPos + BitVec.ofNat 32 4 }) := by
  have hexec : exec .unswap s = .next (unswapPixel s) := command_unlatched _ s hs
  rw [hexec]
  obtain ⟨hwrap, e⟩ | ⟨hregion, hshort, e⟩ | ⟨hregion, hfits, e⟩ := unswapPixel_cases s <;> rw [e]
  · exact ⟨fun _ => rfl, fun hle => by omega, fun ⟨hle, _⟩ => by omega⟩
  · exact ⟨fun hlt => by omega, fun _ _ => rfl, fun ⟨_, hle⟩ => by omega⟩
  · exact ⟨fun hlt => by omega, fun _ hlt => by omega, fun _ => rfl⟩

theorem exec_unswap_of_cursorHas {s : State} (hs : s.err = 0) (h : cursorHas s 4) :
    exec .unswap s = .next { s with pixel := Memory.readWord s.mem (cursorAddr s)
                                    curPos := s.curPos + BitVec.ofNat 32 4 } := by
  obtain ⟨-, -, hloads⟩ := exec_unswap hs
  exact hloads h

/-- `EXT.W.LE` puts the same word in the low 32 bits of `RESULT`. -/
theorem extValue_four_le_low (s : State) :
    (extValue 4 .le s).extractLsb' 0 32 = Memory.readWord s.mem (cursorAddr s) := by
  refine BitVec.eq_of_toNat_eq ?_
  calc ((extValue 4 .le s).extractLsb' 0 32).toNat
      = (extValue 4 .le s).toNat % 2 ^ 32 := by rw [BitVec.extractLsb'_toNat, Nat.shiftRight_zero]
    _ = compose ((List.range 4).map (cursorByte s)) .le :=
        toNat_sext64_mod (by decide) (compose_map_range_lt 4 (cursorByte s) .le)
    _ = (Memory.readWord s.mem (cursorAddr s)).toNat := compose_four_le _ _ _ _

end Sys2Proof.Machine
end

section
/-! SUPPORT. The statements about the layout swapper settled (41_layout_swap.md R111 to R113). -/

namespace Sys2Proof.Proofs

open Sys2Proof Sys2Proof.Machine

/-- Settles O30: the two traps, and the store of four bytes at the output cursor. -/
theorem swapFollowsRule : Obligations.SwapFollowsRule := by
  unfold Obligations.SwapFollowsRule
  refine ⟨decode_encode .swap, fun s hs => ?rule⟩
  case rule =>
    obtain ⟨hwraps, hfull, hstores⟩ := exec_swap hs
    refine ⟨hwraps, hfull, fun hfits => ?_⟩
    have hbyte (k : Nat) (hk : k < 4) := Memory.read_writeBytes_inside (swapBytes s) s.mem (outAddr s) k hk
    refine ⟨_, hstores hfits, rfl, toNat_add_ofNat _ _ 4 hfits.2, hbyte 0 (by decide), hbyte 1 (by decide),
      hbyte 2 (by decide), hbyte 3 (by decide), fun a ha => Memory.read_writeBytes_outside _ _ _ _ ha,
      fun halpha a => ?_⟩
    rw [writeBytes_swapBytes, alpha_append_low halpha]

/-- Settles O31: the two traps, and the load of the word at the input cursor, which `EXT.W.LE` reads too. -/
theorem unswapFollowsRule : Obligations.UnswapFollowsRule := by
  unfold Obligations.UnswapFollowsRule
  refine ⟨decode_encode .unswap, fun s hs => ?rule⟩
  case rule =>
    obtain ⟨hwraps, hshort, hloads⟩ := exec_unswap hs
    refine ⟨hwraps, hshort, fun hfits => ?_⟩
    have hrow : (Instr.extWLe, 4, ByteOrder.le) ∈ extRows := by decide
    obtain ⟨-, -, hext⟩ := extRule_of_mem hrow s hs
    obtain ⟨p, -, hnext⟩ := hext hfits
    exact ⟨_, _, toNat_add_ofNat _ _ 4 hfits.2, toNat_readWord _ _, hloads hfits, _, hnext, extValue_four_le_low s⟩

/-- Settles O32: a load after a store of a word gives the word, and a store of a loaded word changes no byte. -/
theorem swapUnswapRoundTrip : Obligations.SwapUnswapRoundTrip := by
  unfold Obligations.SwapUnswapRoundTrip
  refine ⟨fun s t cb cl cp hs hout ht hregion hfits haddr => ?swapThenUnswap,
    fun s t ob oc op hs hcur ht hregion hfits haddr => ?unswapThenSwap⟩
  case swapThenUnswap =>
    obtain rfl := Host.Outcome.next.inj ((exec_swap_of_outHasPixel hs hout).symm.trans ht)
    have hpixel : Memory.readWord (Memory.writeBytes s.mem (outAddr s) (swapBytes s)) (cb.toNat + cp.toNat) =
        s.alpha ++ s.pixel.extractLsb' 0 24 := by
      rw [haddr, writeBytes_swapBytes, readWord_writeWord]
    exact ⟨_, exec_unswap_of_cursorHas hs ⟨hregion, hfits⟩, hpixel,
      fun halpha => hpixel.trans (alpha_append_low halpha)⟩
  case unswapThenSwap =>
    obtain rfl := Host.Outcome.next.inj ((exec_unswap_of_cursorHas hs hcur).symm.trans ht)
    refine ⟨_, exec_swap_of_outHasPixel hs ⟨hregion, hfits⟩, hs, fun a => ?_⟩
    rw [writeBytes_swapBytes, alpha_append_low rfl]
    change Memory.read (Memory.writeWord s.mem (ob.toNat + op.toNat) (Memory.readWord s.mem (cursorAddr s))) a = _
    rw [haddr, read_writeWord_readWord]

end Sys2Proof.Proofs
end

section
/-! SUPPORT. `CONVERT` by the answer of its checks (42_yuv_convert.md R122), the clamp (R125, R126), and the bytes of an
accepted frame against the samples of the memory before the command (R121, R127 to R129). -/

namespace Sys2Proof.Machine

/-! ### The command by the answer of its checks (R122) -/

theorem exec_convert_unlatched {i : Instr} {s : State} (hi : i = .convertW ∨ i = .convertB) (hs : s.err = 0) :
    exec i s = .next (convert storePixelB s) :=
  (exec_convert hi s).trans (command_unlatched _ s hs)

theorem exec_convert_trap {i : Instr} {s : State} {c : Cause} (hi : i = .convertW ∨ i = .convertB) (hs : s.err = 0)
    (h : convertCheck s = .trap c) : exec i s = .next (trapped 2 (causeNumber c) s) := by
  rw [exec_convert_unlatched hi hs, convert, h]
  rfl

theorem exec_convert_empty {i : Instr} {s : State} (hi : i = .convertW ∨ i = .convertB) (hs : s.err = 0)
    (h : convertCheck s = .empty) : exec i s = .next { s with dstLen := 0 } := by
  rw [exec_convert_unlatched hi hs, convert, h]
  rfl

theorem exec_convert_of_frame {i : Instr} {s : State} {f : Frame} (hi : i = .convertW ∨ i = .convertB)
    (hs : s.err = 0) (h : convertCheck s = .frame f) :
    exec i s = .next { s with mem := convertFrame storePixelB f s.mem
                              dstLen := BitVec.ofNat 32 (4 * f.w * f.h) } := by
  rw [exec_convert_unlatched hi hs, convert, h]
  rfl

/-! ### The clamp (R7, R125) -/

theorem clamp255_of_nonpos {x : Int} (h : x ≤ 0) : clamp255 x = 0 := by
  obtain hneg | rfl := h.lt_or_eq
  · exact if_pos hneg
  · rfl

/-- The clamped byte, as a number. -/
theorem toNat_clamp255 (x : Int) : ((clamp255 x).toNat : Int) = max 0 (min 255 x) := by
  unfold clamp255
  split_ifs with hneg hbig
  · rw [max_eq_left (by omega)]
    rfl
  · rw [min_eq_left (by omega)]
    rfl
  · rw [BitVec.toNat_ofInt, min_eq_right (by omega), max_eq_right (by omega)]
    omega

theorem toNat_clamp255_sra (x : Int) : ((clamp255 (sra x 8)).toNat : Int) = clampShifted x :=
  toNat_clamp255 (x / 256)

/-- The shift and the truncating division differ on negative numerators only, which clamp to 0 both ways (R126). -/
theorem clamp255_sra_eq_tdiv (x : Int) : clamp255 (sra x 8) = clamp255 (x.tdiv 256) := by
  obtain hx | hx := le_or_gt 0 x
  · rw [Int.tdiv_eq_ediv_of_nonneg hx]
    rfl
  · have hshift : sra x 8 ≤ 0 := Int.ediv_nonpos_of_nonpos_of_neg hx.le (by decide)
    have htrunc : 0 ≤ (-x).tdiv 256 := Int.tdiv_nonneg (by omega) (by decide)
    rw [Int.neg_tdiv] at htrunc
    rw [clamp255_of_nonpos hshift, clamp255_of_nonpos (by omega)]

/-! ### Neutral chroma (R132) -/

/-- With neutral chroma the three numerators are one number. -/
theorem nums_of_neutral (y : Byte) :
    redNum y 128 = 298 * ((y.toNat : Int) - 16) + 128 ∧ greenNum y 128 128 = 298 * ((y.toNat : Int) - 16) + 128 ∧
      blueNum y 128 = 298 * ((y.toNat : Int) - 16) + 128 := by
  have hneutral : ((128 : Byte).toNat : Int) = 128 := rfl
  unfold redNum greenNum blueNum
  rw [hneutral]
  omega

/-! ### The samples of an accepted frame (R121) -/

/-- The three samples of a pixel, read where R121 says. -/
theorem samples_frameOf {s : State} (h : convertAccepts s) (px py : Nat) :
    ((lumaAt (frameOf s) s.mem px py).toNat : Int) = lumaSample s px py ∧
      ((uAt (frameOf s) s.mem px py).toNat : Int) = chromaSample s s.uBase px py ∧
      ((vAt (frameOf s) s.mem px py).toNat : Int) = chromaSample s s.vBase px py := by
  obtain ⟨-, -, hys, huvs⟩ := frameOf_dims h
  unfold lumaAt uAt vAt lumaAddr chromaIndex
  rw [hys, huvs]
  exact ⟨rfl, rfl, rfl⟩

/-- The four bytes of a pixel of an accepted frame (R124, R125, R127). -/
theorem pixelBytes_frameOf {s : State} (h : convertAccepts s) (px py : Nat) :
    ∃ b g r : Byte, pixelBytes (frameOf s) s.mem px py = [b, g, r, 255] ∧ (b.toNat : Int) = blueSample s px py ∧
      (g.toNat : Int) = greenSample s px py ∧ (r.toNat : Int) = redSample s px py := by
  obtain ⟨hy, hu, hv⟩ := samples_frameOf h px py
  refine ⟨_, _, _, rfl, ?_, ?_, ?_⟩
  · rw [blue, toNat_clamp255_sra, blueNum, hy, hu, blueSample]
  · rw [green, toNat_clamp255_sra, greenNum, hy, hu, hv, greenSample]
  · rw [red, toNat_clamp255_sra, redNum, hy, hv, redSample]

/-! ### The output of an accepted frame (R128, R129) -/

/-- The state after `CONVERT` of an accepted frame. -/
def converted (s : State) : State :=
  { s with mem := convertFrame storePixelB (frameOf s) s.mem
           dstLen := BitVec.ofNat 32 (4 * (frameOf s).w * (frameOf s).h) }

theorem exec_convert_of_accepts {i : Instr} {s : State} (hi : i = .convertW ∨ i = .convertB) (hs : s.err = 0)
    (h : convertAccepts s) : exec i s = .next (converted s) :=
  exec_convert_of_frame hi hs (convertCheck_accepts s h)

/-- `DST_LEN` counts the bytes of the output. -/
theorem toNat_dstLen_converted {s : State} (h : convertAccepts s) :
    (converted s).dstLen.toNat = 4 * s.width.toNat * s.height.toNat := by
  obtain ⟨hw, hh, -, -⟩ := frameOf_dims h
  rw [← hw, ← hh]
  exact toNat_ofNat_size h

/-- The output bytes of a pixel. -/
theorem read_converted_pixel {s : State} (h : convertAccepts s) {px py : Nat} (hx : px < s.width.toNat)
    (hy : py < s.height.toNat) :
    ((Memory.read (converted s).mem (outputAddr s px py 0)).toNat : Int) = blueSample s px py ∧
      ((Memory.read (converted s).mem (outputAddr s px py 1)).toNat : Int) = greenSample s px py ∧
      ((Memory.read (converted s).mem (outputAddr s px py 2)).toNat : Int) = redSample s px py ∧
      Memory.read (converted s).mem (outputAddr s px py 3) = 255 := by
  obtain ⟨hw, hh, -, -⟩ := frameOf_dims h
  obtain ⟨b, g, r, hbytes, hb, hg, hr⟩ := pixelBytes_frameOf h px py
  have hbyte (j : Nat) (hj : j < 4) :
      Memory.read (converted s).mem (outputAddr s px py j) = [b, g, r, 255].getD j 0 := by
    have hread := read_convertFrame_inside s.mem (frameOf_samplesOutside h) (hw ▸ hx) (hh ▸ hy) hj
    rw [hbytes, pixelAddr, hw] at hread
    exact hread
  rw [hbyte 0 (by decide), hbyte 1 (by decide), hbyte 2 (by decide), hbyte 3 (by decide)]
  exact ⟨hb, hg, hr, rfl⟩

theorem read_converted_outside {s : State} (h : convertAccepts s) {a : Nat}
    (ha : a < s.dstBase.toNat ∨ s.dstBase.toNat + 4 * s.width.toNat * s.height.toNat ≤ a) :
    Memory.read (converted s).mem a = Memory.read s.mem a := by
  obtain ⟨hw, hh, -, -⟩ := frameOf_dims h
  rw [← hw, ← hh] at ha
  exact read_convertFrame_outside s.mem ha

end Sys2Proof.Machine
end

section
/-! SUPPORT. The statements about the YUV converter settled (42_yuv_convert.md R121 to R132). -/

namespace Sys2Proof.Proofs

open Sys2Proof Sys2Proof.Machine

/-- Settles O33: the command does what the answer of its checks says, check by check in the order of R122. -/
theorem convertChecksInOrder : Obligations.ConvertChecksInOrder := by
  unfold Obligations.ConvertChecksInOrder
  intro i s hi hs
  have hcheck := convertCheck_cases s
  have trap {c : Cause} (h : convertCheck s = .trap c) := exec_convert_trap hi hs h
  split_ifs at hcheck ⊢
  exacts [trap hcheck, exec_convert_empty hi hs hcheck, trap hcheck, trap hcheck, trap hcheck, trap hcheck, trap hcheck,
    trap hcheck, trap hcheck, ⟨_, exec_convert_of_frame hi hs hcheck, hs⟩]

/-- Settles O34: the first two checks of R122, at a dimension of 0. -/
theorem zeroDimensionConvertsNothing : Obligations.ZeroDimensionConvertsNothing := by
  unfold Obligations.ZeroDimensionConvertsNothing
  intro i s hi hs
  have hchecks := convertChecksInOrder i s hi hs
  refine ⟨fun hw hh hzero => ?empty, fun _ hneg => ?negDim⟩
  case empty => rwa [if_neg (by omega), if_pos hzero] at hchecks
  case negDim => rwa [if_pos (.inr hneg)] at hchecks

/-- Settles O35: an accepted frame is written whole, from samples that its output range does not meet. -/
theorem convertWritesFrame : Obligations.ConvertWritesFrame := by
  unfold Obligations.ConvertWritesFrame
  exact ⟨decode_encode .convertW, decode_encode .convertB, fun i s hi hs haccepts =>
    ⟨converted s, exec_convert_of_accepts hi hs haccepts, rfl, toNat_dstLen_converted haccepts,
      fun _ _ hx hy => read_converted_pixel haccepts hx hy, fun _ ha => read_converted_outside haccepts ha⟩⟩

/-- Settles O36: the two stores of a pixel are one function, and a load puts the four output bytes together. -/
theorem convertFormsAgree : Obligations.ConvertFormsAgree := by
  unfold Obligations.ConvertFormsAgree
  refine ⟨fun s => (exec_convert (.inl rfl) s).trans (exec_convert (.inr rfl) s).symm,
    fun i s t px py hi hs haccepts ht hx hy => ?word⟩
  case word =>
    obtain rfl := Host.Outcome.next.inj ((exec_convert_of_accepts hi hs haccepts).symm.trans ht)
    obtain ⟨hblue, hgreen, hred, halpha⟩ := read_converted_pixel haccepts hx hy
    have hoffset (j : Nat) : outputAddr s px py 0 + j = outputAddr s px py j := rfl
    rw [toNat_readWord, hoffset, hoffset, hoffset, halpha, ← hblue, ← hgreen, ← hred]
    push_cast
    rfl

/-- Settles O38: with neutral chroma the numerators agree, alpha is the top byte of the packed word, and the rest are
fixed triples. -/
theorem pixelFunctionProperties : Obligations.PixelFunctionProperties := by
  unfold Obligations.PixelFunctionProperties
  refine ⟨by decide, by decide, fun y => ?grey, by decide, by decide, by decide, fun y u v => ?alpha⟩
  case grey =>
    obtain ⟨hr, hg, hb⟩ := nums_of_neutral y
    unfold red green blue
    rw [hr, hg, hb]
    exact ⟨rfl, rfl, toNat_clamp255_sra _⟩
  case alpha =>
    obtain ⟨-, -, -, halpha⟩ := argb_parts 255 (red y v) (green y u v) (blue y u)
    rw [pixelWord_eq_argb]
    exact halpha

/-- Settles O39: the numerators are linear in the samples, which are 0 .. 255; clamping hides the
rounding of the shift. -/
theorem colourRanges : Obligations.ColourRanges := by
  unfold Obligations.ColourRanges
  refine ⟨fun y v => ?red, fun y u v => ?green, fun y u => ?blue, clamp255_sra_eq_tdiv, by decide, by decide⟩
  case red =>
    have := y.isLt; have := v.isLt
    unfold sra redNum
    omega
  case green =>
    have := y.isLt; have := u.isLt; have := v.isLt
    unfold sra greenNum
    omega
  case blue =>
    have := y.isLt; have := u.isLt
    unfold sra blueNum
    omega

end Sys2Proof.Proofs
end

section
/-! SUPPORT. The command step (43_control.md R150): every command but `CLRERR` is an operation behind the front end, and
every command ends in a next state. -/

namespace Sys2Proof.Machine

/-- Every command but `CLRERR` is an operation behind the front end (R150). -/
theorem exec_eq_command {i : Instr} (h : i ≠ .clrerr) : ∃ op : State → State, ∀ s, exec i s = command op s := by
  obtain ⟨n, o, hi⟩ | ⟨n, o, hi⟩ | rfl | rfl | rfl | rfl | hi | rfl := instr_families i
  · obtain ⟨l, -, hexec⟩ := exec_of_mem_extRows hi
    exact ⟨_, hexec⟩
  · obtain ⟨l, -, hexec⟩ := exec_of_mem_composeRows hi
    exact ⟨_, hexec⟩
  · exact ⟨_, fun _ => rfl⟩
  · exact ⟨_, fun _ => rfl⟩
  · exact ⟨_, fun _ => rfl⟩
  · exact ⟨_, fun _ => rfl⟩
  · exact ⟨_, exec_convert hi⟩
  · exact absurd rfl h

theorem exec_clrerr (s : State) : exec .clrerr s = .next { s with err := 0, cause := 0 } := rfl

/-- A state whose latch is clear is its own state after `CLRERR` (R152). -/
theorem exec_clrerr_unlatched {s : State} (hs : s.err = 0) (hc : s.cause = 0) : exec .clrerr s = .next s :=
  exec_clrerr_trapped (e := s.err) (c := s.cause) hs hc

/-- While an error is latched every command but `CLRERR` is ignored (R168). -/
theorem exec_latched {i : Instr} {s : State} (hi : i ≠ .clrerr) (hs : s.err ≠ 0) : exec i s = .next s := by
  obtain ⟨op, hexec⟩ := exec_eq_command hi
  exact (hexec s).trans (command_latched op s hs)

theorem command_completes (op : State → State) (s : State) : ∃ t, command op s = .next t := ⟨_, rfl⟩

theorem exec_completes (i : Instr) (s : State) : ∃ t, exec i s = .next t := by
  by_cases hi : i = .clrerr
  · exact hi ▸ ⟨_, exec_clrerr s⟩
  · obtain ⟨op, hexec⟩ := exec_eq_command hi
    exact hexec s ▸ command_completes op s

/-- The host's queue is none of the fields that a command may write (R30). -/
theorem hostQueue_of_exec {i : Instr} {s t : State} (h : exec i s = .next t) : t.hostQueue = s.hostQueue := by
  obtain ⟨hframe, -⟩ := Proofs.commandsWriteOnlyTheirRegisters i s t h
  rw [hframe]

/-! ### The word written to `CMD` -/

/-- The word of `CLRERR` is 8 (R62). -/
theorem decode_eq_clrerr_iff {w : Word} : decode w = .ok .clrerr ↔ w = 0x00000008 :=
  decode_eq_ok_iff_encode_eq.trans eq_comm

theorem commandWrite_clrerr (s : State) : commandWrite 0x00000008 s = .next { s with err := 0, cause := 0 } :=
  commandWrite_legal _ .clrerr s (decode_eq_clrerr_iff.mpr rfl)

/-- While an error is latched every word but that of `CLRERR` is ignored, legal or not (R150, R168). -/
theorem commandWrite_latched {w : Word} {s : State} (hs : s.err ≠ 0) (hw : w ≠ 0x00000008) :
    commandWrite w s = .next s := by
  by_cases hlegal : ∃ i, decode w = .ok i
  · obtain ⟨i, hi⟩ := hlegal
    have hne : i ≠ .clrerr := fun h => hw (decode_eq_clrerr_iff.mp (h ▸ hi))
    exact (commandWrite_legal w i s hi).trans (exec_latched hne hs)
  · exact commandWrite_illegal_latched hs (not_exists.mp hlegal)

/-- The command step ends in a next state, whatever the word, and takes nothing from the host's queue. -/
theorem commandWrite_completes (w : Word) (s : State) : ∃ t, commandWrite w s = .next t ∧ t.hostQueue = s.hostQueue := by
  by_cases hlegal : ∃ i, decode w = .ok i
  · obtain ⟨i, hi⟩ := hlegal
    obtain ⟨t, ht⟩ := exec_completes i s
    exact ⟨t, (commandWrite_legal w i s hi).trans ht, hostQueue_of_exec ht⟩
  · have hillegal := not_exists.mp hlegal
    by_cases hs : s.err = 0
    · exact ⟨_, commandWrite_illegal_unlatched hs hillegal, rfl⟩
    · exact ⟨s, commandWrite_illegal_latched hs hillegal, rfl⟩

end Sys2Proof.Machine
end

section
/-! SUPPORT. The host's register accesses (43_control.md R151, R153): what a write of one offset leaves to be read at
every offset, and which accesses are steps. -/

namespace Sys2Proof.Machine

/-! ### Offsets and registers (R11, R26) -/

theorem regAt_offset (r : Reg) : regAt r.offset = some r := (regAt_eq_some _ r).mpr rfl

theorem readOffset_offset (r : Reg) (s : State) : readOffset r.offset s = readReg r s := by
  rw [readOffset, regAt_offset]

theorem writeOffset_offset (r : Reg) (v : Word) (s : State) : writeOffset r.offset v s = writeReg r v s := by
  rw [writeOffset, regAt_offset]

/-- Every offset is that of a register or reserved, and then it reads 0 and ignores a write. -/
theorem offset_cases (off : BitVec 8) :
    (∃ r : Reg, off = r.offset) ∨ ((∀ s, readOffset off s = 0) ∧ ∀ v s, writeOffset off v s = s) := by
  cases h : regAt off with
  | some r => exact .inl ⟨r, (regAt_eq_some off r).mp h⟩
  | none =>
    refine .inr ⟨fun s => ?_, fun v s => ?_⟩
    · rw [readOffset, h]
    · rw [writeOffset, h]

/-- The registers end below offset 0x74 (R11). -/
theorem toNat_offset_lt (r : Reg) : r.offset.toNat < 0x74 := by
  cases r <;> decide

theorem readOffset_of_le {off : BitVec 8} (s : State) (h : 0x74 ≤ off.toNat) : readOffset off s = 0 := by
  obtain ⟨r, rfl⟩ | ⟨hread, -⟩ := offset_cases off
  · exact absurd (toNat_offset_lt r) (Nat.not_lt.mpr h)
  · exact hread s

theorem exists_reg_of_mem_rwOffsets {off : BitVec 8} (h : off ∈ rwOffsets) : ∃ r : Reg, off = r.offset := by
  have hall : ∀ off ∈ rwOffsets, (regAt off).isSome = true := by decide
  obtain ⟨r, hr⟩ := Option.isSome_iff_exists.mp (hall off h)
  exact ⟨r, (regAt_eq_some off r).mp hr⟩

theorem offset_inj {r r' : Reg} : r.offset = r'.offset ↔ r = r' :=
  ⟨fun h => Option.some.inj (by rw [← regAt_offset, h, regAt_offset]), congrArg Reg.offset⟩

/-- A read at an offset of the table gives its register's value. -/
theorem readOffset_of_mem_regTable (s : State) : ∀ p ∈ regTable, readOffset p.1 s = readReg p.2 s := by
  have hoffsets : ∀ p ∈ regTable, p.1 = p.2.offset := by decide
  intro p hp
  rw [hoffsets p hp, readOffset_offset]

/-- `ALPHA` reads with its 24 unused bits 0 (R18, R153). -/
theorem readReg_alpha (s : State) : readReg .alpha s = 0#24 ++ s.alpha := BitVec.setWidth_eq_append (by decide)

/-- `ALPHA` keeps the low byte of what is written (R18). -/
theorem zeroExtend_low_byte (v : Word) : (v.extractLsb' 0 8).zeroExtend 32 = v &&& 0xFF := by
  apply BitVec.eq_of_toNat_eq
  have hlt := Nat.mod_lt v.toNat (show 0 < 2 ^ 8 by decide)
  rw [BitVec.toNat_and, BitVec.zeroExtend, BitVec.toNat_setWidth, BitVec.extractLsb'_toNat, Nat.shiftRight_zero,
    Nat.mod_eq_of_lt (by omega)]
  exact (Nat.and_two_pow_sub_one_eq_mod v.toNat 8).symm

/-! ### A read after a write (R151) -/

theorem readOffset_writeOffset_same {off : BitVec 8} (v : Word) (s : State) (h : off ∈ rwOffsets) :
    readOffset off (writeOffset off v s) = if off = 0x30 then v &&& 0xFF else v := by
  obtain ⟨r, rfl⟩ := exists_reg_of_mem_rwOffsets h
  have halpha : r.offset = 0x30 ↔ r = .alpha := offset_inj (r' := .alpha)
  rw [writeOffset_offset, readOffset_offset, readReg_writeReg_same r v s h, zeroExtend_low_byte]
  simp only [halpha]

theorem readOffset_writeOffset_other {off off' : BitVec 8} (v : Word) (s : State) (h : off' ≠ off) :
    readOffset off' (writeOffset off v s) = readOffset off' s := by
  obtain ⟨r, rfl⟩ | ⟨-, hwrite⟩ := offset_cases off
  · obtain ⟨r', rfl⟩ | ⟨hread, -⟩ := offset_cases off'
    · rw [writeOffset_offset, readOffset_offset, readOffset_offset,
        readReg_writeReg_other r r' v s (mt offset_inj.mpr h)]
    · rw [hread, hread]
  · rw [hwrite]

/-- A read-only register and a reserved offset ignore a write (R26, R151). -/
theorem writeOffset_readOnly {off : BitVec 8} (v : Word) (s : State) (h : off ∉ rwOffsets) : writeOffset off v s = s := by
  obtain ⟨r, rfl⟩ | ⟨-, hwrite⟩ := offset_cases off
  · exact (writeOffset_offset r v s).trans (writeReg_readOnly r v s h)
  · exact hwrite v s

/-- The whole of a register write as the host can see it. -/
theorem readOffset_writeOffset (off off' : BitVec 8) (v : Word) (s : State) :
    readOffset off' (writeOffset off v s) =
      if off' = off ∧ off ∈ rwOffsets then (if off = 0x30 then v &&& 0xFF else v) else readOffset off' s := by
  by_cases hrw : off ∈ rwOffsets
  · by_cases hoff : off' = off
    · rw [if_pos ⟨hoff, hrw⟩, hoff, readOffset_writeOffset_same v s hrw]
    · rw [if_neg (fun h => hoff h.1), readOffset_writeOffset_other v s hoff]
  · rw [if_neg (fun h => hrw h.2), writeOffset_readOnly v s hrw]

/-- A register write leaves `M` and the model's own fields alone. -/
theorem writeOffset_frame (off : BitVec 8) (v : Word) (s : State) :
    (writeOffset off v s).mem = s.mem ∧ (writeOffset off v s).hostQueue = s.hostQueue ∧
      (writeOffset off v s).replies = s.replies ∧ (writeOffset off v s).freeCount = s.freeCount := by
  obtain ⟨r, rfl⟩ | ⟨-, hwrite⟩ := offset_cases off
  · rw [writeOffset_offset]
    cases r <;> exact ⟨rfl, rfl, rfl, rfl⟩
  · rw [hwrite]
    exact ⟨rfl, rfl, rfl, rfl⟩

/-! ### Which register accesses are steps (R153) -/

theorem hostStep_writeReg_aligned {off : BitVec 8} (v : Word) (s : State) (h4 : off.toNat % 4 = 0) (h0 : off ≠ 0) :
    hostStep (.writeReg off v) s = .next (writeOffset off v s) :=
  (if_neg (not_not_intro h4)).trans (if_neg h0)

theorem hostStep_readReg_aligned {off : BitVec 8} (s : State) (h4 : off.toNat % 4 = 0) :
    hostStep (.readReg off) s = .next { s with replies := .word (readOffset off s) :: s.replies } :=
  if_neg (not_not_intro h4)

theorem hostStep_writeReg_misaligned {off : BitVec 8} (v : Word) (s : State) (h : off.toNat % 4 ≠ 0) :
    hostStep (.writeReg off v) s = .refused (.misalignedRegisterAccess off) := if_pos h

theorem hostStep_readReg_misaligned {off : BitVec 8} (s : State) (h : off.toNat % 4 ≠ 0) :
    hostStep (.readReg off) s = .refused (.misalignedRegisterAccess off) := if_pos h

/-- No register's reading depends on the host's queue. -/
theorem readOffset_hostQueue (off : BitVec 8) (s : State) (q : List HostStep) :
    readOffset off { s with hostQueue := q } = readOffset off s := by
  obtain ⟨r, rfl⟩ | ⟨hread, -⟩ := offset_cases off
  · rw [readOffset_offset, readOffset_offset]
    cases r <;> rfl
  · rw [hread, hread]

/-! ### Which host accesses complete -/

/-- A host access that completes is well formed. -/
theorem wf_of_hostStep_next {h : HostStep} {s t : State} (ht : hostStep h s = .next t) : h.wf = true := by
  obtain ⟨w, rfl, -⟩ | ⟨off, v, rfl, -, h4, -⟩ | ⟨off, rfl, h4, -⟩ | ⟨a, bs, rfl, hle, -⟩ | ⟨a, n, rfl, hle, -⟩ |
    ⟨rfl, -⟩ | ⟨w, rfl, -⟩ := hostStep_next h s t ht
  · rfl
  · exact beq_iff_eq.mpr h4
  · exact beq_iff_eq.mpr h4
  · exact decide_eq_true hle
  · exact decide_eq_true hle
  · rfl
  · rfl

/-- A well-formed host access completes, and the rest of the host's queue stays. -/
theorem hostStep_completes {h : HostStep} (hwf : h.wf = true) (s : State) :
    ∃ t, hostStep h s = .next t ∧ t.hostQueue = s.hostQueue := by
  cases h with
  | writeReg off v =>
    by_cases h0 : off = 0
    · exact h0 ▸ commandWrite_completes v s
    · obtain ⟨-, hqueue, -⟩ := writeOffset_frame off v s
      exact ⟨_, hostStep_writeReg_aligned v s (beq_iff_eq.mp hwf) h0, hqueue⟩
  | readReg off => exact ⟨_, hostStep_readReg_aligned s (beq_iff_eq.mp hwf), rfl⟩
  | oddAccess size off => exact absurd hwf Bool.false_ne_true
  | writeMem a bs => exact ⟨_, hostStep_writeMem_inside s (of_decide_eq_true hwf), rfl⟩
  | readMem a n => exact ⟨_, hostStep_readMem_inside s (of_decide_eq_true hwf), rfl⟩
  | reset => exact ⟨resetEvent s, rfl, rfl⟩
  | resetDuring w => exact ⟨resetInside w s, rfl, rfl⟩

end Sys2Proof.Machine
end

section
/-! SUPPORT. The statements about the command step and the register block settled (43_control.md R150 to R153). -/

namespace Sys2Proof.Proofs

open Sys2Proof Sys2Proof.Machine

/-- Settles O5: the access is a command step, and the word is legal. -/
theorem stepRunsDecodedCommand : Obligations.StepRunsDecodedCommand := by
  unfold Obligations.StepRunsDecodedCommand
  exact fun s rest w i hq hdecode _ => (step_command s w rest hq).trans (commandWrite_legal w i _ hdecode)

/-- Settles O6: the command step by the latch and then by the word. -/
theorem commandStepFollowsFrontEnd : Obligations.CommandStepFollowsFrontEnd := by
  unfold Obligations.CommandStepFollowsFrontEnd
  intro s rest w hq
  rw [step_command s w rest hq]
  refine ⟨fun _ hw => ?clrerr, fun hs hw => commandWrite_latched hs hw,
    fun hs hillegal => commandWrite_illegal_unlatched hs hillegal, fun _ i hi => ?legal⟩
  case clrerr =>
    rw [hw]
    exact commandWrite_clrerr _
  case legal =>
    obtain ⟨t, ht⟩ := exec_completes i { s with hostQueue := rest }
    exact ⟨t, ht, (commandWrite_legal w i _ hi).trans ht⟩

/-- Settles O10: the word of `CLRERR`, and its effect, which a clear latch does not see. -/
theorem clrerrClearsLatch : Obligations.ClrerrClearsLatch := by
  unfold Obligations.ClrerrClearsLatch
  exact ⟨decode_eq_clrerr_iff.mpr rfl, exec_clrerr, fun _ hs hc => exec_clrerr_unlatched hs hc⟩

/-- Settles O12: completion of every command, and of a host access exactly when it is well formed. -/
theorem stepsCompleteExactlyOnWellFormedAccesses : Obligations.StepsCompleteExactlyOnWellFormedAccesses := by
  unfold Obligations.StepsCompleteExactlyOnWellFormedAccesses
  refine ⟨exec_completes, fun s h rest hq => ?access⟩
  case access =>
    rw [step_cons s h rest hq]
    exact ⟨fun hwf => hostStep_completes hwf _,
      fun hbad t ht => Bool.false_ne_true (hbad.symm.trans (wf_of_hostStep_next ht))⟩

/-- Settles O40: the access is a register write, whose effect is said offset by offset. -/
theorem hostRegisterWrite : Obligations.HostRegisterWrite := by
  unfold Obligations.HostRegisterWrite
  intro s off v rest hq h4 h0
  obtain ⟨hmem, hqueue, hreplies, hfree⟩ := writeOffset_frame off v { s with hostQueue := rest }
  refine ⟨_, (step_cons s _ rest hq).trans (hostStep_writeReg_aligned v _ h4 h0), hqueue, hmem, hreplies, hfree,
    fun off' => ?_⟩
  rw [readOffset_writeOffset, readOffset_hostQueue]

/-- Settles O41: the reading of each row of the register table, of the offsets past it, and the refusals. -/
theorem hostRegisterRead : Obligations.HostRegisterRead := by
  unfold Obligations.HostRegisterRead
  refine ⟨fun s off rest hq h4 => ?read, fun s => ?values, fun s _ h => readOffset_of_le s h,
    fun s off v rest h4 hq => ?misaligned, fun s off size rest hq => step_cons s _ rest hq⟩
  case read =>
    rw [step_cons s _ rest hq, hostStep_readReg_aligned _ h4, readOffset_hostQueue]
  case values =>
    rw [← readReg_alpha s]
    change ∀ p ∈ regTable.map fun p => (p.1, readReg p.2 s), readOffset p.1 s = p.2
    exact List.forall_mem_map.mpr (readOffset_of_mem_regTable s)
  case misaligned =>
    obtain hq | hq := hq
    · exact (step_cons s _ rest hq).trans (hostStep_readReg_misaligned _ h4)
    · exact (step_cons s _ rest hq).trans (hostStep_writeReg_misaligned v _ h4)

end Sys2Proof.Proofs
end

section
/-! SUPPORT. The traps of each command (60_exceptions.md R162, column "raised by"), and that a command which ends with an
error latched took one of them and did nothing else (R166). -/

namespace Sys2Proof.Machine

/-! ### The column "raised by" of R162 -/

/-- The traps of a read at the input cursor (R81). -/
def cursorTraps : List Trap := [.contractViolation .regionWrap, .outOfData]

/-- The traps of `SWAP` (R111). -/
def swapTraps : List Trap := [.contractViolation .regionWrap, .contractViolation .outCap]

/-- The causes of `CONVERT`, in the order of the checks of R122. -/
def convertCauses : List Cause :=
  [.negDim, .negStride, .regionWrap, .yBounds, .uBounds, .vBounds, .dstCap, .overlap]

/-- The traps of a legal command (R162). -/
def trapsOf : Instr → List Trap
  | .extB _ | .extHBe | .extHLe | .extWBe | .extWLe | .extDBe | .extDLe | .unswap => cursorTraps
  | .swap => swapTraps
  | .convertW | .convertB => convertCauses.map .contractViolation
  | .composeB _ | .composeHBe | .composeHLe | .composeWBe | .composeWLe | .composeDBe | .composeDLe => []
  | .sumclr | .sumadd | .clrerr => []

theorem trapsOf_ext {i : Instr} {n : Nat} {o : ByteOrder} (h : (i, n, o) ∈ extRows) : trapsOf i = cursorTraps :=
  (by decide : ∀ row ∈ extRows, trapsOf row.1 = cursorTraps) _ h

theorem trapsOf_compose {i : Instr} {n : Nat} {o : ByteOrder} (h : (i, n, o) ∈ composeRows) : trapsOf i = [] :=
  (by decide : ∀ row ∈ composeRows, trapsOf row.1 = []) _ h

theorem trapsOf_convert {i : Instr} (h : i = .convertW ∨ i = .convertB) :
    trapsOf i = convertCauses.map .contractViolation := by
  obtain rfl | rfl := h <;> rfl

/-! ### The codes of each group (R161, R162) -/

theorem codes_of_mem_cursorTraps {r : Trap} (h : r ∈ cursorTraps) :
    (errCode r = 1 ∧ causeCode r = 0) ∨ (errCode r = 2 ∧ causeCode r = 2) :=
  (by decide : ∀ r ∈ cursorTraps, (errCode r = 1 ∧ causeCode r = 0) ∨ (errCode r = 2 ∧ causeCode r = 2)) r h

theorem codes_of_mem_swapTraps {r : Trap} (h : r ∈ swapTraps) :
    errCode r = 2 ∧ (causeCode r = 2 ∨ causeCode r = 10) :=
  (by decide : ∀ r ∈ swapTraps, errCode r = 2 ∧ (causeCode r = 2 ∨ causeCode r = 10)) r h

theorem codes_of_mem_convertCauses {r : Trap} (h : r ∈ convertCauses.map .contractViolation) :
    errCode r = 2 ∧ 2 ≤ (causeCode r).toNat ∧ (causeCode r).toNat ≤ 9 := by
  obtain ⟨c, hc, rfl⟩ := List.mem_map.mp h
  exact ⟨rfl, (by decide : ∀ c ∈ convertCauses, 2 ≤ (causeNumber c).toNat ∧ (causeNumber c).toNat ≤ 9) c hc⟩

/-! ### Precise traps (R166) -/

/-- At every state the operation takes one of `traps`, and then nothing else happens, or it leaves `ERR` as it was. -/
def TrapsPrecisely (traps : List Trap) (op : State → State) : Prop :=
  ∀ s, (∃ r ∈ traps, op s = raise r s) ∨ (op s).err = s.err

theorem extract_trapsPrecisely (l : Length) (o : ByteOrder) : TrapsPrecisely cursorTraps (extract l o) := by
  intro s
  obtain ⟨-, hwrap⟩ | ⟨-, -, hshort⟩ | ⟨-, -, hreads⟩ := extract_cases l o s
  · exact .inl ⟨_, by decide, hwrap⟩
  · exact .inl ⟨_, by decide, hshort⟩
  · exact .inr (by rw [hreads])

theorem unswapPixel_trapsPrecisely : TrapsPrecisely cursorTraps unswapPixel := by
  intro s
  obtain ⟨-, hwrap⟩ | ⟨-, -, hshort⟩ | ⟨-, -, hreads⟩ := unswapPixel_cases s
  · exact .inl ⟨_, by decide, hwrap⟩
  · exact .inl ⟨_, by decide, hshort⟩
  · exact .inr (by rw [hreads])

theorem swapPixel_trapsPrecisely : TrapsPrecisely swapTraps swapPixel := by
  intro s
  obtain ⟨-, hwrap⟩ | ⟨-, -, hfull⟩ | ⟨-, -, hstores⟩ := swapPixel_cases s
  · exact .inl ⟨_, by decide, hwrap⟩
  · exact .inl ⟨_, by decide, hfull⟩
  · exact .inr (by rw [hstores])

/-- Each check of R122 answers a cause of the list. -/
theorem mem_convertCauses_of_convertCheck {s : State} {c : Cause} (h : convertCheck s = .trap c) :
    c ∈ convertCauses := by
  have hchecks := convertCheck_cases s
  rw [h] at hchecks
  split_ifs at hchecks <;> cases hchecks <;> decide

theorem convert_trapsPrecisely (store : Frame → Nat → Nat → Memory → Memory) :
    TrapsPrecisely (convertCauses.map .contractViolation) (convert store) := by
  intro s
  obtain ⟨c, hc, htrap⟩ | ⟨-, hempty⟩ | ⟨f, -, hframe⟩ := convert_cases store s
  · exact .inl ⟨_, List.mem_map_of_mem (mem_convertCauses_of_convertCheck hc), htrap⟩
  · exact .inr (by rw [hempty])
  · exact .inr (by rw [hframe])

/-- Behind the front end too: a latched error that was not there before is one of the operation's traps. -/
theorem command_traps {traps : List Trap} {op : State → State} {s t : State} (hop : TrapsPrecisely traps op)
    (hs : s.err = 0) (ht : command op s = .next t) (herr : t.err ≠ 0) : ∃ r ∈ traps, t = raise r s := by
  obtain rfl := eq_of_command_next hs ht
  exact (hop s).resolve_right fun hkept => herr (hkept.trans hs)

/-- A command that ends with an error latched took one of its own traps and did nothing else (R162, R166). -/
theorem exec_traps {i : Instr} {s t : State} (hs : s.err = 0) (ht : exec i s = .next t) (herr : t.err ≠ 0) :
    ∃ r ∈ trapsOf i, t = raise r s := by
  obtain ⟨n, o, hi⟩ | ⟨n, o, hi⟩ | rfl | rfl | rfl | rfl | hi | rfl := instr_families i
  · obtain ⟨l, -, hexec⟩ := exec_of_mem_extRows hi
    rw [trapsOf_ext hi]
    exact command_traps (extract_trapsPrecisely l o) hs (hexec s ▸ ht) herr
  · obtain ⟨r, rfl⟩ := exec_compose_frame hi ht
    exact absurd hs herr
  · obtain ⟨a, rfl⟩ := exec_sumclr_frame ht
    exact absurd hs herr
  · obtain ⟨a, rfl⟩ := exec_sumadd_frame ht
    exact absurd hs herr
  · exact command_traps swapPixel_trapsPrecisely hs ht herr
  · exact command_traps unswapPixel_trapsPrecisely hs ht herr
  · rw [trapsOf_convert hi]
    exact command_traps (convert_trapsPrecisely storePixelB) hs (exec_convert hi s ▸ ht) herr
  · obtain rfl := exec_clrerr_frame ht
    exact absurd rfl herr

/-- A word written to `CMD` that leaves an error latched took one trap and did nothing else, legal or not (R166). -/
theorem commandWrite_traps {w : Word} {s t : State} (hs : s.err = 0) (ht : commandWrite w s = .next t)
    (herr : t.err ≠ 0) : ∃ r, t = raise r s := by
  by_cases hlegal : ∃ i, decode w = .ok i
  · obtain ⟨i, hi⟩ := hlegal
    obtain ⟨r, -, hraise⟩ := exec_traps hs ((commandWrite_legal w i s hi).symm.trans ht) herr
    exact ⟨r, hraise⟩
  · have hillegal := commandWrite_illegal w s (not_exists.mp hlegal)
    exact ⟨_, eq_of_command_next hs (hillegal.symm.trans ht)⟩

/-- `CLRERR` undoes a trap from a clear `STATUS` (R152, R169). -/
theorem exec_clrerr_raise {s : State} (r : Trap) (hs : s.err = 0) (hc : s.cause = 0) :
    exec .clrerr (raise r s) = .next s :=
  exec_clrerr_trapped hs hc

end Sys2Proof.Machine
end

section
/-! SUPPORT. The statements about traps and the latch settled (60_exceptions.md R162, R166, R168, R169). -/

namespace Sys2Proof.Proofs

open Sys2Proof Sys2Proof.Machine

/-- Settles O7: the front end ignores every command but `CLRERR`, which has none. -/
theorem latchedCommandsChangeNothing : Obligations.LatchedCommandsChangeNothing := by
  unfold Obligations.LatchedCommandsChangeNothing
  exact fun i s hs => ⟨fun hi => exec_latched hi hs, fun hi => hi ▸ exec_clrerr s⟩

/-- Settles O8: the next state is the state before with one trap taken. -/
theorem trapsChangeOnlyStatus : Obligations.TrapsChangeOnlyStatus := by
  unfold Obligations.TrapsChangeOnlyStatus
  refine ⟨fun i s t hs ht herr => ?command, fun s t rest w hq hs ht herr => ?word⟩
  case command =>
    obtain ⟨r, -, rfl⟩ := exec_traps hs ht herr
    exact ⟨rfl, legalStatus_raise r s⟩
  case word =>
    rw [step_command s w rest hq] at ht
    obtain ⟨r, rfl⟩ := commandWrite_traps (s := { s with hostQueue := rest }) hs ht herr
    exact ⟨rfl, legalStatus_raise r _⟩

/-- Settles O9: the trap taken is one of the command's own, whose codes are known group by group. -/
theorem commandsRaiseOnlyTheirCauses : Obligations.CommandsRaiseOnlyTheirCauses := by
  unfold Obligations.CommandsRaiseOnlyTheirCauses
  intro i s t hs ht herr
  obtain ⟨r, hr, rfl⟩ := exec_traps hs ht herr
  obtain ⟨n, o, hi⟩ | ⟨n, o, hi⟩ | rfl | rfl | rfl | rfl | hi | rfl := instr_families i
  · rw [trapsOf_ext hi] at hr
    exact .inl ⟨⟨_, hi, rfl⟩, codes_of_mem_cursorTraps hr⟩
  · rw [trapsOf_compose hi] at hr
    exact absurd hr List.not_mem_nil
  · exact absurd hr List.not_mem_nil
  · exact absurd hr List.not_mem_nil
  · exact .inr (.inr (.inl ⟨rfl, codes_of_mem_swapTraps hr⟩))
  · exact .inr (.inl ⟨rfl, codes_of_mem_cursorTraps hr⟩)
  · rw [trapsOf_convert hi] at hr
    exact .inr (.inr (.inr ⟨hi, codes_of_mem_convertCauses hr⟩))
  · exact absurd hr List.not_mem_nil

/-- Settles O11: `CLRERR` undoes the trap, so the command starts again from the same state. -/
theorem failureRepeatsAfterClrerr : Obligations.FailureRepeatsAfterClrerr := by
  unfold Obligations.FailureRepeatsAfterClrerr
  intro i s t hs hc ht herr
  obtain ⟨r, -, rfl⟩ := exec_traps hs ht herr
  have hback := exec_clrerr_raise r hs hc
  refine ⟨hback, fun u hu => ?_⟩
  obtain rfl := Host.Outcome.next.inj (hback.symm.trans hu)
  exact ht

end Sys2Proof.Proofs
end

section
/-! SUPPORT. A reset inside a command (70_reset_and_hazards.md R191): the write range by the word interrupted, and its free
bytes. -/

namespace Sys2Proof.Machine

/-- The words of `SWAP` and `CONVERT` differ (R62). -/
theorem not_convertsUnder_of_swapsUnder {w : Word} {s : State} (h : swapsUnder w s) : ¬ convertsUnder w s := by
  obtain ⟨hswap, -⟩ := h
  rintro ⟨hconvert, -⟩
  omega

theorem writeRange_of_swapsUnder {w : Word} {s : State} (h : swapsUnder w s) : writeRange w s = (outAddr s, 4) := by
  obtain ⟨-, hrange⟩ | ⟨hconverts, -⟩ | ⟨hswaps, -, -⟩ := writeRange_cases w s
  · exact hrange
  · exact absurd hconverts (not_convertsUnder_of_swapsUnder h)
  · exact absurd h hswaps

theorem writeRange_of_convertsUnder {w : Word} {s : State} (h : convertsUnder w s) :
    writeRange w s = (s.dstBase.toNat, 4 * s.width.toNat * s.height.toNat) := by
  obtain ⟨hswaps, -⟩ | ⟨-, hrange⟩ | ⟨-, hconverts, -⟩ := writeRange_cases w s
  · exact absurd h (not_convertsUnder_of_swapsUnder hswaps)
  · exact hrange
  · exact absurd h hconverts

/-- A command that is ignored, traps or writes no memory has an empty write range. -/
theorem writeRange_of_no_writer {w : Word} {s : State} (hswaps : ¬ swapsUnder w s) (hconverts : ¬ convertsUnder w s) :
    writeRange w s = (0, 0) := by
  obtain ⟨h, -⟩ | ⟨h, -⟩ | ⟨-, -, hrange⟩ := writeRange_cases w s
  · exact absurd h hswaps
  · exact absurd h hconverts
  · exact hrange

theorem freeRange_resetInside {w : Word} {s : State} {a n : Nat} (h : writeRange w s = (a, n)) :
    freeRange s (resetInside w s) a n := by
  unfold freeRange
  rw [resetInside_mem, resetInside_freeCount, h]
  exact ⟨fun k => read_fillFree_inside s.mem a n s.freeCount k, rfl,
    fun x => read_fillFree_outside s.mem a n s.freeCount x⟩

theorem resetInside_keeps_memory {w : Word} {s : State} (h : writeRange w s = (0, 0)) :
    (resetInside w s).mem = s.mem ∧ (resetInside w s).freeCount = s.freeCount := by
  rw [resetInside_mem, resetInside_freeCount, h]
  exact ⟨fillFree_zero s.mem 0 s.freeCount, rfl⟩

theorem step_resetDuring {s : State} {w : Word} {rest : List HostStep} (hq : s.hostQueue = .resetDuring w :: rest) :
    step s = .next (resetInside w { s with hostQueue := rest }) :=
  step_cons s _ rest hq

end Sys2Proof.Machine
end

section
/-! SUPPORT. The statement about a reset inside a command settled (70_reset_and_hazards.md R191). -/

namespace Sys2Proof.Proofs

open Sys2Proof Sys2Proof.Machine

/-- Settles O45: the reset fills the interrupted command's write range, whose three values are those of an accepted
`SWAP`, of an accepted `CONVERT`, and of every other word. None of them reads the host's queue. -/
theorem resetInsideCommandTouchesOnlyItsRange : Obligations.ResetInsideCommandTouchesOnlyItsRange := by
  unfold Obligations.ResetInsideCommandTouchesOnlyItsRange
  intro s w rest hq
  refine ⟨_, step_resetDuring hq, resetInside_registers w _, rfl, rfl, fun hswaps => ?swap, fun hconverts => ?convert,
    fun hswaps hconverts => ?other⟩
  case swap =>
    exact freeRange_resetInside (s := { s with hostQueue := rest }) (writeRange_of_swapsUnder hswaps)
  case convert =>
    exact freeRange_resetInside (s := { s with hostQueue := rest }) (writeRange_of_convertsUnder hconverts)
  case other =>
    exact resetInside_keeps_memory (s := { s with hostQueue := rest }) (writeRange_of_no_writer hswaps hconverts)

end Sys2Proof.Proofs
end
